-- ==== Sys2Proof/Word.lean ====
section
/-! DEFINITION. The word types of CANSER: a byte is the smallest unit the block moves (rule R8). -/

namespace Sys2Proof

/-- An unsigned integer 0 to 255, bit 0 the least significant (rule R8). -/
abbrev Byte := BitVec 8

/-- A 32-bit unsigned field of a frame or of an operand register (rules R10, R26). -/
abbrev Word32 := BitVec 32

/-- The bits of an IEEE 754 binary64 (rule R11). -/
abbrev F64 := BitVec 64

/-- A positive integer: MAX_READ (rule R7) and the `d` of `Finite(d)` (rule R26). -/
abbrev Positive := { n : Nat // 1 ≤ n }

end Sys2Proof
end

