-- ==== Sys2Proof/Config.lean ====
section
/-! DEFINITION. The constants of rule R6, the parameters of rule R7 and the model's free values. -/

namespace Sys2Proof.Config

/-- First byte of every frame (rules R6, R62). -/
def startByte : Byte := 0xAA

/-- Last byte of every frame (rules R6, R67). -/
def endByte : Byte := 0xBB

/-- Width of `arbitration_id` (rule R6). -/
def idBits : Nat := 29

/-- Greatest legal `arbitration_id` (rule R6). -/
def idMax : Nat := 536870911

/-- Greatest payload length (rule R6). -/
def maxDlc : Nat := 8

/-- Bytes of a frame other than payload (rule R6). -/
def fixedLen : Nat := 11

/-- Length of the shortest frame (rule R6). -/
def minFrame : Nat := 11

/-- Length of the longest frame (rule R6). -/
def maxFrame : Nat := 19

/-- Greatest `timestamp_ms` (rule R6). -/
def tsMaxMs : Nat := 0xFFFFFFFF

/-- The literal `4294967.295` as the binary64 rule R11 gives (rules R6, R11). -/
def tsMax : F64 := 0x4150624DD2E147AE

/-- The binary64 `1000.0`, the scale `MS_PER_S` of rule R6 as the operand of `fmul` and `fdiv`. -/
def msPerS : F64 := 0x408F400000000000

/-- Parameters of rule R7 that are fixed when the block is built (rule R162). They stand in State, so that every
statement about every state is a statement about every value of them (assumption log 12). -/
structure Build where
  /-- `MAX_READ`, OPEN, a positive integer (rule R7, decision D14). -/
  maxRead : Positive
  /-- `EARLY_DLC_REJECT`, OPEN, default `false` (decision D11). -/
  earlyDlcReject : Bool
  deriving DecidableEq, Repr

/-- `LIVE_MAX` of rule R7: the most live bytes a NeedMoreData can leave buffered (rule R105). -/
def liveMax (early : Bool) : Nat := if early then 18 else 265

/-- `TIMEOUT_UNIT`, OPEN and used by no rule (decision D16). -/
opaque timeoutUnit : Nat

/-- FREE VALUE (assumption logs 8, 9). The byte standing at position `lane` of the `draw`-th value the spec leaves
unspecified: the data lanes of MSG_OUT beyond `len`, the bytes of FRAME_OUT beyond its length (rule R27), the bytes of an
over-long operand beyond its eighth lane (rule R26). Nothing constrains it. -/
opaque freeByte (draw lane : Nat) : Byte

end Sys2Proof.Config
end

