-- ==== Sys2Proof/Syntax.lean ====
section
/-! DEFINITION. The instructions of CANSER, one constructor per row of the opcode table (rules R4, R60, R73). -/

namespace Sys2Proof

/-- The variable fields of one wire frame (rule R60). `dlc` is `data.length` (rules R21, R64); the three reserved bits
above the identifier are fixed zeros of the encoding (rule R65). -/
structure Frame where
  /-- `timestamp_ms`, offsets 1 to 4 (rule R63). -/
  ms : Word32
  /-- The 29 identifier bits of offsets 6 to 9 (rule R65). -/
  id : BitVec 29
  /-- The payload, offsets 10 to `9 + dlc` (rule R66). -/
  data : List Byte
  deriving DecidableEq, Repr

/-- The opcode table: seven commands and two reserved-code rows on the host's command port (rule R73), and nine frame
forms, one per `dlc`, which the RX engine fetches at `sp` (rules R4, R68). -/
inductive Instr where
  | nop
  | msgNew
  | msgEq
  | encode
  | decode
  | send
  | recv
  | reserved7
  /-- Codes 8 to 15; `r` is the low three bits of the code. -/
  | reserved8To15 (r : BitVec 3)
  | frameD0 (f : Frame)
  | frameD1 (f : Frame)
  | frameD2 (f : Frame)
  | frameD3 (f : Frame)
  | frameD4 (f : Frame)
  | frameD5 (f : Frame)
  | frameD6 (f : Frame)
  | frameD7 (f : Frame)
  | frameD8 (f : Frame)
  deriving DecidableEq, Repr

end Sys2Proof
end

