-- ==== Sys2Proof/WellFormed.lean ====
section
/-! DEFINITION. Which instruction terms the encoding can express: a frame form carries exactly its `dlc` bytes (rules R60,
R66). -/

namespace Sys2Proof

/-- The frame form of `n` data bytes carries `n` data bytes. -/
def Frame.wf (n : Nat) (f : Frame) : Bool := f.data.length == n

/-- Well-formedness of an instruction. -/
def Instr.wf : Instr → Bool
  | .nop => true
  | .msgNew => true
  | .msgEq => true
  | .encode => true
  | .decode => true
  | .send => true
  | .recv => true
  | .reserved7 => true
  | .reserved8To15 _ => true
  | .frameD0 f => f.wf 0
  | .frameD1 f => f.wf 1
  | .frameD2 f => f.wf 2
  | .frameD3 f => f.wf 3
  | .frameD4 f => f.wf 4
  | .frameD5 f => f.wf 5
  | .frameD6 f => f.wf 6
  | .frameD7 f => f.wf 7
  | .frameD8 f => f.wf 8

/-- `Instr.wf` as a proposition. -/
abbrev Instr.WellFormed (i : Instr) : Prop := i.wf = true

end Sys2Proof
end

