-- ==== Sys2Proof/Decode.lean ====
section
/-! DEFINITION. From bits to instructions and back: the 4-bit command codes of rule R73, the frame layout of rules R60 to
R68 and its three illegal kinds (rule R70). -/

namespace Sys2Proof

/-- What the machine fetches: a code from the host's command port, or the bytes from a START byte on. -/
inductive Fetched where
  | command (cmd : BitVec 4)
  | frame (bytes : List Byte)
  deriving DecidableEq, Repr

/-- Why bytes are no frame. The kinds of rule R70 are `impossibleDlc`, `reservedBits` and
`badEnd`; the first three say that there is no complete candidate (rules R69, R96 to R98). -/
inductive Reject where
  /-- The first byte is not START. -/
  | notStart
  /-- Fewer than 11 bytes. -/
  | shortHeader
  /-- Fewer than `11 + dlc` bytes. -/
  | shortFrame
  /-- "impossible dlc": the `dlc` byte is 9 to 255. -/
  | impossibleDlc
  /-- "reserved bits set": bits 31:29 of the id field are not zero. -/
  | reservedBits
  /-- "bad trailing marker": the byte at offset `10 + dlc` is not END. -/
  | badEnd
  /-- Bytes are left after END where one frame alone was asked for. -/
  | trailingBytes
  deriving DecidableEq, Repr

/-- `be32` of rule R10: the most significant byte first. -/
def be32 (b0 b1 b2 b3 : Byte) : Word32 := b0 ++ b1 ++ b2 ++ b3

/-- `bytes_be32` of rule R10. -/
def bytesBe32 (v : Word32) : List Byte :=
  [v.extractLsb' 24 8, v.extractLsb' 16 8, v.extractLsb' 8 8, v.extractLsb' 0 8]

/-- The reserved bits 31:29 of the id field (rule R65). -/
def reservedIdBits (w : Word32) : BitVec 3 := w.extractLsb' 29 3

/-- The three checks of rules R70 and R99 on a complete candidate, whose bytes from offset 10 on are `rest`, and the fields
of rule R100. Answers the fields and the bytes after END. -/
def checkCandidate (ms : Word32) (n : Byte) (idField : Word32) (rest : List Byte) : Except Reject (Frame × List Byte) :=
  match rest.drop n.toNat with
  | [] => .error .shortFrame
  | e :: tail =>
    if Config.maxDlc < n.toNat then .error .impossibleDlc
    else if reservedIdBits idField ≠ 0 then .error .reservedBits
    else if e ≠ Config.endByte then .error .badEnd
    else .ok ({ ms := ms, id := idField.setWidth 29, data := rest.take n.toNat }, tail)

/-- Reads one frame from the head of a byte sequence (rules R60 to R70): its fields and the bytes after it, or the reason
there is none. -/
def decodeFields : List Byte → Except Reject (Frame × List Byte)
  | [] => .error .shortHeader
  | s :: bs =>
    if s ≠ Config.startByte then .error .notStart
    else match bs with
      | t0 :: t1 :: t2 :: t3 :: n :: i0 :: i1 :: i2 :: i3 :: x :: rest =>
        checkCandidate (be32 t0 t1 t2 t3) n (be32 i0 i1 i2 i3) (x :: rest)
      | _ => .error .shortHeader

/-- The frame form of a frame's `dlc` (rules R60, R68). -/
def Frame.instr (f : Frame) : Instr :=
  match f.data.length with
  | 0 => .frameD0 f
  | 1 => .frameD1 f
  | 2 => .frameD2 f
  | 3 => .frameD3 f
  | 4 => .frameD4 f
  | 5 => .frameD5 f
  | 6 => .frameD6 f
  | 7 => .frameD7 f
  | _ => .frameD8 f

/-- The command of a code (rule R73). Total: the codes 7 to 15 are the reserved commands (rule R140). -/
def decodeCommand (c : BitVec 4) : Instr :=
  match c.toNat with
  | 0 => .nop
  | 1 => .msgNew
  | 2 => .msgEq
  | 3 => .encode
  | 4 => .decode
  | 5 => .send
  | 6 => .recv
  | 7 => .reserved7
  | _ => .reserved8To15 (c.setWidth 3)

/-- The instruction decoder: total, and rejecting by name. A frame must fill the bytes it is given. -/
def decode : Fetched → Except Reject Instr
  | .command c => .ok (decodeCommand c)
  | .frame bytes =>
    match decodeFields bytes with
    | .ok (f, []) => .ok f.instr
    | .ok (_, _ :: _) => .error .trailingBytes
    | .error r => .error r

/-- The bytes of a frame (rules R60, R68, R90). -/
def encodeFields (f : Frame) : List Byte :=
  [Config.startByte] ++ bytesBe32 f.ms ++ [BitVec.ofNat 8 f.data.length] ++ bytesBe32 (f.id.setWidth 32) ++ f.data
    ++ [Config.endByte]

/-- The encoder: the code or the bytes of an instruction (rules R68, R73). -/
def encode : Instr → Fetched
  | .nop => .command 0
  | .msgNew => .command 1
  | .msgEq => .command 2
  | .encode => .command 3
  | .decode => .command 4
  | .send => .command 5
  | .recv => .command 6
  | .reserved7 => .command 7
  | .reserved8To15 r => .command (1#1 ++ r)
  | .frameD0 f => .frame (encodeFields f)
  | .frameD1 f => .frame (encodeFields f)
  | .frameD2 f => .frame (encodeFields f)
  | .frameD3 f => .frame (encodeFields f)
  | .frameD4 f => .frame (encodeFields f)
  | .frameD5 f => .frame (encodeFields f)
  | .frameD6 f => .frame (encodeFields f)
  | .frameD7 f => .frame (encodeFields f)
  | .frameD8 f => .frame (encodeFields f)

/-- The bytes of the number `w` with the byte of bits 7..0 first. -/
def lowByteFirst (nbits w : Nat) : List Byte :=
  (List.range (nbits / 8)).map fun k => BitVec.ofNat 8 (w >>> (8 * k))

/-- The bytes of a frame row's number, in wire order. The opcode table writes such a row as one number whose MOST
significant byte is START; a number whose bits 7..0 are START is read with its low byte first. No number is a
frame under both readings (assumption log 15, DEDUCED). -/
def tableBytes (nbits w : Nat) : List Byte :=
  let low := lowByteFirst nbits w
  if low.head? = some Config.startByte then low else low.reverse

/-- What is fetched for a row of the opcode table: a command row has 4 bits, given as one byte. -/
def tableFetched (nbits w : Nat) : Fetched :=
  if nbits ≤ 8 then .command (BitVec.ofNat 4 w) else .frame (tableBytes nbits w)

/-- The instruction the decoder reads from the bits of an opcode-table row. -/
def decodeTableWord (nbits w : Nat) : Option Instr :=
  if nbits ≤ 8 ∧ 16 ≤ w then none else (decode (tableFetched nbits w)).toOption

end Sys2Proof
end

