-- ==== Sys2Proof/Machine/State.lean ====
section
/-! DEFINITION. The state of one CANSER instance (rules R20 to R33), the environment it talks to (rules R30, R45 to R48, held as
scripts), the reasons a step can stop, and the state after reset. -/

namespace Sys2Proof.Machine

/-- A Message (rule R21). `dlc` is `data.length`. As an operand it may lie outside the legal ranges. -/
structure Message where
  id : Word32
  data : List Byte
  ts : F64
  ext : Bool
  deriving DecidableEq, Repr

/-- `fsm`, the frame-synchronisation status (rule R24). -/
inductive Fsm where
  | idle
  | syncing
  | headerBuffered
  | frameComplete
  deriving DecidableEq, Repr

/-- The outcomes of the status registers (rule R74); their codes are `Status.code`. -/
inductive Status where
  /-- `None`: no outcome since reset. -/
  | noOutcome
  /-- `Ok`, `Ok(bytes)`, `Bool(b)`. -/
  | ok
  | message
  | timedOut
  | needMoreData
  | rangeError
  | transportError
  | refused
  deriving DecidableEq, Repr

/-- The closed set of RangeError tags (rules R74, R136). -/
inductive RangeTag where
  | arbitrationId
  | payloadLength
  | timestamp
  deriving DecidableEq, Repr

/-- The result ports: one for the commands that run on no engine, one for each engine (rule R27). -/
inductive Port where
  | host
  | tx
  | rx
  deriving DecidableEq, Repr

/-- `TIMEOUT` (rules R26, R119). `d`, a positive count of units of TIMEOUT_UNIT, takes no part in any rule. -/
inductive Timeout where
  | zero
  | finite (d : Positive)
  | infinite
  deriving DecidableEq, Repr

/-- `MSG_IN` and `MSG_IN2` (rule R26). -/
structure MsgIn where
  id : Word32
  len : BitVec 8
  data : Vector Byte 8
  ts : F64
  ext : Bool
  deriving DecidableEq, Repr

/-- `MSG_OUT` and `RX_MSG_OUT` (rule R27). -/
structure MsgOut where
  id : Word32
  len : BitVec 8
  data : Vector Byte 8
  ts : F64
  ext : Bool
  tsMs : Word32
  deriving DecidableEq, Repr

/-- `FRAME_OUT`: 19 bytes and a 5-bit length (rule R27). -/
structure FrameOut where
  bytes : Vector Byte 19
  len : BitVec 5
  deriving DecidableEq, Repr

/-- The operand of the DECODE command, a list and a cursor (rule R102, decision D31; assumption log 10). -/
structure DecIn where
  buf : List Byte
  pos : Nat
  deriving DecidableEq, Repr

/-- What the DECODE command returns beside its Message (rules R102, R103, decision D31; assumption log 10). -/
structure DecOut where
  buf : List Byte
  pos : Nat
  consumed : Nat
  frameEnd : Nat
  deriving DecidableEq, Repr

/-- One answer of the channel to `ChWrite` (rule R45). -/
inductive WriteAnswer where
  | count (c : Nat)
  | fail
  deriving DecidableEq, Repr

/-- One answer of the channel to `ChRead` (rule R46): how many bytes of the RX stream it hands over, and whether the
deadline has been reached. -/
inductive ReadAnswer where
  | bytes (count : Nat) (expired : Bool)
  | fail
  deriving DecidableEq, Repr

/-- An external channel answers as the environment draws; the loopback channel is rule R52. -/
inductive ChannelKind where
  | external
  | loopback
  deriving DecidableEq, Repr

/-- The ByteChannel, an agent outside the block (rules R5, R30, R45 to R48, R52). Its answers to come stand in `writes` and
`reads`, oldest first; what it does where a script has run out is assumption log 3. -/
structure Channel where
  kind : ChannelKind
  /-- False once the host has called `close()` (rule R47). -/
  isOpen : Bool
  /-- A `ChWrite` has failed, or an operation that writes was accepted after a failure: every later one fails (rule R161;
  assumption log 25). -/
  writeFailed : Bool
  /-- The same of `ChRead`. -/
  readFailed : Bool
  /-- The TX stream (rule R40): bytes accepted by `ChWrite`, in order. -/
  txStream : List Byte
  /-- The RX stream (rule R40): bytes the channel will hand to `ChRead`, in order; the queue `q` of the loopback channel, of
  which rule R52 makes it the end of `txStream` that has not been read (`State.Inv`). -/
  rxStream : List Byte
  writes : List WriteAnswer
  reads : List ReadAnswer
  deriving DecidableEq, Repr

/-- A working channel as the host obtains one (rules R162 step 1, R163; assumption log 20): an external channel, with what
its far end has sent and will send, or a loopback channel, which holds nothing yet (rule R52). -/
inductive NewChannel where
  | external (rxStream : List Byte) (writes : List WriteAnswer) (reads : List ReadAnswer)
  | loopback (writes : List WriteAnswer) (reads : List ReadAnswer)
  deriving DecidableEq, Repr

/-- What the host does at the block's ports (rules R26, R47, R160, R163). -/
inductive HostAction where
  | setMsgIn (m : MsgIn)
  | setMsgIn2 (m : MsgIn)
  | setTimeout (t : Timeout)
  | setDecIn (d : DecIn)
  /-- Writes `CMD` and issues the command. -/
  | issue (c : BitVec 4)
  /-- Asserts `rst` (rule R160). -/
  | rst
  /-- Calls `close()` on the channel (rule R47). -/
  | close
  /-- Recovery after a TransportError: a working channel, and reset (rule R163; assumption log 20). -/
  | recreate (c : NewChannel)
  deriving DecidableEq, Repr

/-- One entry of the schedule: a host action, or a turn of an engine (rule R152; assumption log 1). -/
inductive Input where
  | host (a : HostAction)
  | txTurn
  | rxTurn
  deriving DecidableEq, Repr

/-- The state of the machine. Plain data. -/
structure State where
  /-- `rxbuf` (rule R22). -/
  rxbuf : List Byte
  /-- `sp` (rule R23). -/
  sp : Nat
  /-- `fsm` (rule R24). -/
  fsm : Fsm
  /-- `broken` (rule R25). -/
  broken : Bool
  /-- `CMD` (rules R26, R73). -/
  cmd : BitVec 4
  /-- A command has been issued and not yet accepted (rule R26; assumption log 2). -/
  cmdIssued : Bool
  /-- `MSG_IN` (rule R26). -/
  msgIn : MsgIn
  /-- `MSG_IN2` (rule R26). -/
  msgIn2 : MsgIn
  /-- `TIMEOUT` (rule R26). -/
  timeout : Timeout
  /-- The DECODE command's operand (rule R102, D31). -/
  decIn : DecIn
  /-- `STATUS` (rules R27, R74). -/
  status : BitVec 3
  /-- `ERR_TAG` (rules R27, R74). -/
  errTag : BitVec 2
  /-- `MSG_OUT` (rule R27). -/
  msgOut : MsgOut
  /-- `FRAME_OUT` (rule R27). -/
  frameOut : FrameOut
  /-- `EQ_OUT` (rule R27). -/
  eqOut : Bool
  /-- The DECODE command's returned buffer, cursor, `consumed` and `end` (rule R102, D31). -/
  decOut : DecOut
  /-- `TX_STATUS` (rule R27). -/
  txStatus : BitVec 3
  /-- `TX_ERR_TAG` (rule R27). -/
  txErrTag : BitVec 2
  /-- `RX_STATUS` (rule R27). -/
  rxStatus : BitVec 3
  /-- `RX_MSG_OUT` (rule R27). -/
  rxMsgOut : MsgOut
  /-- `txframe` (rule R28). -/
  txframe : List Byte
  /-- `txoff` (rule R28). -/
  txoff : Nat
  /-- `tx_busy` (rule R28). -/
  txBusy : Bool
  /-- `expired` (rule R29). -/
  expired : Bool
  /-- `rx_busy` (rule R29). -/
  rxBusy : Bool
  /-- The TIMEOUT of the RECV in flight (rules R26, R119; assumption log 17). -/
  rxTimeout : Timeout
  /-- The environment's channel (rule R30). -/
  chan : Channel
  /-- The host's coming actions and the engines' turns (assumption log 1). -/
  inputs : List Input
  /-- The parameters fixed when the block is built (rule R7; assumption log 12). -/
  build : Config.Build
  /-- The model's own: the index of the next free value (assumption log 8). -/
  free : Nat
  deriving DecidableEq, Repr

/-- Why the machine stops with a fault. -/
inductive Fault where
  /-- Raised by an engine's turn, never by an instruction's meaning: the environment's script answers outside the channel
  contract (a write count above the request, more bytes than MAX_READ or than the RX stream holds). Rule R48 and U3 of
  93_implementation_defined.md put such a run outside the spec, treatment `stuck`. Safe: the model has no further
  behaviour where the spec gives none (assumption log 4). -/
  | channelBreach
  deriving DecidableEq, Repr

/-- Why the machine refuses. Not the outcome `Refused` of rule R140, which is a next state. -/
inductive Refusal where
  /-- Raised by an arm of `exec` for an instruction that has no meaning yet; no arm does. Safe. -/
  | notModelled (mnemonic : String)
  deriving DecidableEq, Repr

/-- An operand register at reset (rule R33: unspecified; assumption log 6). -/
def MsgIn.zero : MsgIn := { id := 0, len := 0, data := #v[0, 0, 0, 0, 0, 0, 0, 0], ts := 0, ext := false }

/-- A result register at reset (rule R33: unspecified; assumption log 6). -/
def MsgOut.zero : MsgOut :=
  { id := 0, len := 0, data := #v[0, 0, 0, 0, 0, 0, 0, 0], ts := 0, ext := false, tsMs := 0 }

/-- FRAME_OUT at reset (rule R33: unspecified; assumption log 6). -/
def FrameOut.zero : FrameOut :=
  { bytes := #v[0, 0, 0, 0, 0, 0, 0, 0, 0, 0, 0, 0, 0, 0, 0, 0, 0, 0, 0], len := 0 }

/-- An open channel that holds nothing (rule R162 step 1; assumption log 3). -/
def Channel.fresh : Channel :=
  { kind := .external, isOpen := true, writeFailed := false, readFailed := false, txStream := [], rxStream := []
    writes := [], reads := [] }

/-- The machine right after reset (rules R33, R160): the block waits for a command. Registers rule R33 leaves
unspecified hold the values of assumption log 6; the parameters those of log 12; the environment is silent. -/
def State.reset : State where
  rxbuf := []
  sp := 0
  fsm := .idle
  broken := false
  cmd := 0
  cmdIssued := false
  msgIn := .zero
  msgIn2 := .zero
  timeout := .zero
  decIn := { buf := [], pos := 0 }
  status := 0
  errTag := 0
  msgOut := .zero
  frameOut := .zero
  eqOut := false
  decOut := { buf := [], pos := 0, consumed := 0, frameEnd := 0 }
  txStatus := 0
  txErrTag := 0
  rxStatus := 0
  rxMsgOut := .zero
  txframe := []
  txoff := 0
  txBusy := false
  expired := false
  rxBusy := false
  rxTimeout := .zero
  chan := .fresh
  inputs := []
  build := { maxRead := ⟨256, by decide⟩, earlyDlcReject := false }
  free := 0

end Sys2Proof.Machine
end

