-- ==== Sys2Proof/Machine/Flags.lean ====
section
/-! DEFINITION. The codes of the status and tag registers (rule R74) and the values of `fsm` (rule R125). -/

namespace Sys2Proof.Machine

/-- `STATUS[2:0]` (rule R74). -/
def Status.code : Status → BitVec 3
  | .noOutcome => 0
  | .ok => 1
  | .message => 2
  | .timedOut => 3
  | .needMoreData => 4
  | .rangeError => 5
  | .transportError => 6
  | .refused => 7

/-- `ERR_TAG[1:0]` of a violated invariant (rule R74). -/
def RangeTag.code : RangeTag → BitVec 2
  | .arbitrationId => 1
  | .payloadLength => 2
  | .timestamp => 3

/-- `ERR_TAG` of an outcome: 0 unless it is RangeError (rules R27, R74). -/
def tagCode : Option RangeTag → BitVec 2
  | none => 0
  | some v => v.code

/-- The arm of DECODE1 that answered NeedMoreData (rules R96, R97, R98). -/
inductive NeedArm where
  | noStart
  | header
  | frame
  deriving DecidableEq, Repr

/-- `FsmAfter` on the NeedMoreData arms (rule R125); on a Frame it is FrameComplete. -/
def NeedArm.fsm : NeedArm → Fsm
  | .noStart => .syncing
  | .header => .syncing
  | .frame => .headerBuffered

end Sys2Proof.Machine
end

