-- ==== Sys2Proof/Machine/Ops.lean ====
section
/-! DEFINITION. The named operations over the buffer, the channel and the result registers, and the one operation that ends an
operation of the host with an outcome (rules R44 to R47, R52, R119, R144, R160). -/

namespace Sys2Proof.Machine

/-- `s[a : a + n]` of rule R9. -/
def slice (bs : List Byte) (a n : Nat) : List Byte := (bs.drop a).take n

/-- `MemRead(addr, n)` (rules R12, R44): the bytes, or nothing where an index does not exist; no rule asks there. -/
def State.memRead (s : State) (addr n : Nat) : Option (List Byte) :=
  if addr + n ≤ s.rxbuf.length then some (slice s.rxbuf addr n) else none

/-- The byte of RXBUF at an index (rule R40). -/
def State.byteAt (s : State) (addr : Nat) : Option Byte := s.rxbuf[addr]?

/-- The buffer's form, invariant (I1) of rule R31: the cursor is an index of the buffer or its end. -/
abbrev Memory.wf (s : State) : Prop := s.sp ≤ s.rxbuf.length

/-- `RxAppend(bs)` (rule R44). -/
def State.rxAppend (bs : List Byte) (s : State) : State := { s with rxbuf := s.rxbuf ++ bs }

/-- `RxDrop(k)`, always together with `sp <- 0` (rule R44). -/
def State.rxDrop (k : Nat) (s : State) : State := { s with rxbuf := s.rxbuf.drop k, sp := 0 }

/-- Whether a `ChWrite` can do anything but fail (rules R47, R161). -/
def Channel.writable (ch : Channel) : Bool := ch.isOpen && !ch.writeFailed

/-- Whether a `ChRead` can do anything but fail (rules R47, R161). -/
def Channel.readable (ch : Channel) : Bool := ch.isOpen && !ch.readFailed

/-- The channel under a SEND that is accepted: one that has failed, in either direction, still fails (rule R161; assumption
log 25). -/
def Channel.beginSend (ch : Channel) : Channel := { ch with writeFailed := ch.writeFailed || ch.readFailed }

/-- The channel under a RECV that is accepted (rule R161; assumption log 25). -/
def Channel.beginRecv (ch : Channel) : Channel := { ch with readFailed := ch.readFailed || ch.writeFailed }

/-- The outcome of one `ChWrite`. -/
inductive WriteResult where
  /-- The channel has not answered yet. -/
  | waiting
  /-- The script answers outside rule R45. -/
  | breach
  | failed (ch : Channel)
  | accepted (c : Nat) (ch : Channel)
  deriving DecidableEq, Repr

/-- The channel after it has accepted `bs`; what the loopback channel accepts joins its queue (rules R45, R52). -/
def Channel.accept (bs : List Byte) (ch : Channel) : Channel :=
  match ch.kind with
  | .external => { ch with txStream := ch.txStream ++ bs }
  | .loopback => { ch with txStream := ch.txStream ++ bs, rxStream := ch.rxStream ++ bs }

/-- `Count(c)`: the bytes `bs[0:c]` join the TX stream; more than was offered is outside the contract (rule R45, D22). -/
def Channel.acceptCount (bs : List Byte) (c : Nat) (ch : Channel) : WriteResult :=
  if bs.length < c then .breach else .accepted c (ch.accept (bs.take c))

/-- `ChWrite(bs)` (rules R45, R47, R52, R161). The loopback channel accepts the count its script gives, else all
(assumption log 18). -/
def chWrite (ch : Channel) (bs : List Byte) : WriteResult :=
  if ch.writable = false then .failed ch
  else match ch.kind, ch.writes with
    | .external, [] => .waiting
    | .external, .fail :: ws => .failed { ch with writes := ws, writeFailed := true }
    | .external, .count c :: ws => { ch with writes := ws }.acceptCount bs c
    | .loopback, .count c :: ws => { ch with writes := ws }.acceptCount bs c
    | .loopback, .fail :: ws => { ch with writes := ws }.acceptCount bs bs.length
    | .loopback, [] => ch.acceptCount bs bs.length

/-- The outcome of one `ChRead`. -/
inductive ReadResult where
  /-- An Infinite read that the channel has not answered yet blocks (rule R127). -/
  | waiting
  /-- The script answers outside rule R46. -/
  | breach
  | failed (ch : Channel)
  | bytes (bs : List Byte) (expired : Bool) (ch : Channel)
  deriving DecidableEq, Repr

/-- The bit `e` of a `ChRead` answer: fixed by the forms Zero and Infinite, drawn for Finite (rule R119). -/
def Timeout.expiry (t : Timeout) (drawn : Bool) : Bool :=
  match t with
  | .zero => true
  | .finite _ => drawn
  | .infinite => false

/-- `Bytes(bs, e)`: the next `k` bytes of the RX stream, removed from it (rule R46). -/
def Channel.handOver (k : Nat) (e : Bool) (ch : Channel) : ReadResult :=
  .bytes (ch.rxStream.take k) e { ch with rxStream := ch.rxStream.drop k }

/-- The expiry the loopback's test chooses; where its script has run out, the deadline (rule R52; assumption log 18). -/
def loopbackExpiry : List ReadAnswer → Bool
  | .bytes _ e :: _ => e
  | .fail :: _ => true
  | [] => true

/-- `ChRead(max, t)` where an external channel's script has run out (assumption log 3): a Zero read does not block and
returns what the channel holds, a Finite one ends with its deadline reached, and an Infinite one blocks (rules R119,
R127). -/
def Channel.unscripted (max : Nat) (t : Timeout) (ch : Channel) : ReadResult :=
  match t with
  | .zero => ch.handOver (min ch.rxStream.length max) true
  | .finite _ => ch.handOver (min ch.rxStream.length max) true
  | .infinite => .waiting

/-- `ChRead(max, t)` (rules R46, R47, R52, R119, R161). -/
def chRead (ch : Channel) (max : Nat) (t : Timeout) : ReadResult :=
  if ch.readable = false then .failed ch
  else match ch.kind, ch.reads with
    | .external, [] => ch.unscripted max t
    | .external, .fail :: rs => .failed { ch with reads := rs, readFailed := true }
    | .external, .bytes k e :: rs =>
      if max < k ∨ ch.rxStream.length < k then .breach else { ch with reads := rs }.handOver k (t.expiry e)
    | .loopback, rs => { ch with reads := rs.tail }.handOver (min ch.rxStream.length max) (t.expiry (loopbackExpiry rs))

/-- The end of an operation with an outcome (rules R27, R144), what takes the place of taking an exception: the status
register of the port is written, and its tag, which is 0 unless the outcome is RangeError. No context is saved, no mode
changes, no vector is taken; there is no return operation (rule R147). RECV has no tag: it raises no
RangeError (rule R136). -/
def State.endOp (p : Port) (st : Status) (tag : Option RangeTag) (s : State) : State :=
  match p with
  | .host => { s with status := st.code, errTag := tagCode tag }
  | .tx => { s with txStatus := st.code, txErrTag := tagCode tag }
  | .rx => { s with rxStatus := st.code }

/-- The channel the host obtained: open, nothing accepted yet; the queue of a loopback channel is initially empty (rules R52,
R162 step 1, R163). -/
def NewChannel.channel : NewChannel → Channel
  | .external rx ws rs => { Channel.fresh with rxStream := rx, writes := ws, reads := rs }
  | .loopback ws rs => { Channel.fresh with kind := .loopback, writes := ws, reads := rs }

/-- A refused command (rule R140): nothing was started, so no operation ends, and no register but the status register of the
port is written, the tag of an earlier RangeError included (assumption log 11). -/
def State.refuse (p : Port) (s : State) : State :=
  match p with
  | .host => { s with status := Status.refused.code }
  | .tx => { s with txStatus := Status.refused.code }
  | .rx => { s with rxStatus := Status.refused.code }

/-- `rst` (rules R33, R160, R161): every piece of the block's state takes its reset value; the channel, the schedule, the
build parameters and the free-value counter are not the block's (assumption logs 6, 7). -/
def State.resetBlock (s : State) : State :=
  { State.reset with chan := s.chan, inputs := s.inputs, build := s.build, free := s.free }

/-- One action of the host (rules R26, R47, R160, R163). -/
def State.hostAction (a : HostAction) (s : State) : State :=
  match a with
  | .setMsgIn m => { s with msgIn := m }
  | .setMsgIn2 m => { s with msgIn2 := m }
  | .setTimeout t => { s with timeout := t }
  | .setDecIn d => { s with decIn := d }
  | .issue c => { s with cmd := c, cmdIssued := true }
  | .rst => s.resetBlock
  | .close => { s with chan := { s.chan with isOpen := false } }
  | .recreate c => { s.resetBlock with chan := c.channel }

end Sys2Proof.Machine
end

