-- ==== Sys2Proof/Machine/Decoder.lean ====
section
/-! DEFINITION. DECODE1, the one-candidate synchronisation attempt, and DECODE, its repetition (rules R95 to R103). -/

namespace Sys2Proof.Machine

/-- The outcomes of DECODE1 (rule R95). A Frame's Message is `frameMessage f`. -/
inductive Decode1Outcome where
  | needMore (arm : NeedArm)
  | frame (f : Frame) (consumed frameEnd : Nat)
  | corrupt
  deriving DecidableEq, Repr

/-- The outcomes of DECODE: `Corrupt` never leaves its loop (rules R102, R139). -/
inductive DecodeOutcome where
  | needMore (arm : NeedArm)
  | frame (f : Frame) (consumed frameEnd : Nat)
  deriving DecidableEq, Repr

/-- The least index at or after `pos` that holds START (rule R96). -/
def findStart (buf : List Byte) (pos : Nat) : Option Nat :=
  ((buf.drop pos).findIdx? (· == Config.startByte)).map (pos + ·)

/-- The verdict on a complete candidate at `p` (rules R99, R100, R101): the three checks are `checkCandidate`'s. -/
def verdict (buf : List Byte) (p : Nat) : Decode1Outcome × List Byte × Nat :=
  match decodeFields (buf.drop p) with
  | .ok (f, _) => (.frame f (Config.fixedLen + f.data.length) (p + Config.fixedLen + f.data.length), buf, p)
  | .error _ => (.corrupt, buf, p + 1)

/-- The candidate at `p`, whose byte at offset 5 is `dlc` (rules R98, R106). -/
def decodeCandidate (early : Bool) (buf : List Byte) (p : Nat) (dlc : Byte) : Decode1Outcome × List Byte × Nat :=
  if buf.length - p < Config.fixedLen + dlc.toNat then
    if early = true ∧ Config.maxDlc < dlc.toNat then (.corrupt, buf, p + 1)
    else (.needMore .frame, buf, p)
  else verdict buf p

/-- `DECODE1(buf, pos)`: outcome, buffer and cursor (rule R95). -/
def decode1 (early : Bool) (buf : List Byte) (pos : Nat) : Decode1Outcome × List Byte × Nat :=
  match findStart buf pos with
  | none => (.needMore .noStart, [], 0)
  | some p =>
    if buf.length - p < Config.fixedLen then (.needMore .header, buf, p)
    else decodeCandidate early buf p (buf.getD (p + 5) 0)

/-- At most `fuel` attempts of DECODE1. -/
def decodeLoop (early : Bool) : Nat → List Byte → Nat → DecodeOutcome × List Byte × Nat
  | 0, _, _ => (.needMore .noStart, [], 0)
  | fuel + 1, buf, pos =>
    match decode1 early buf pos with
    | (.needMore arm, buf', pos') => (.needMore arm, buf', pos')
    | (.frame f consumed frameEnd, buf', pos') => (.frame f consumed frameEnd, buf', pos')
    | (.corrupt, buf', pos') => decodeLoop early fuel buf' pos'

/-- `DECODE(buf, pos)` (rule R102). Each Corrupt raises the cursor by at least one, so one attempt for every byte at or
after the cursor, and one more, are enough. -/
def decodeBuffer (early : Bool) (buf : List Byte) (pos : Nat) : DecodeOutcome × List Byte × Nat :=
  decodeLoop early (buf.length - pos + 1) buf pos

end Sys2Proof.Machine
end

