-- ==== Sys2Proof/Machine/Commands.lean ====
section
/-! DEFINITION. NOP and the reserved command codes (rules R73, R140). -/

namespace Sys2Proof.Machine

/-- What a step answers. -/
abbrev Result := Host.Outcome State Fault Refusal

/-- NOP: no operation, no outcome, no state change (rule R73). -/
def execNop (s : State) : Result := .next s

/-- Code 7, reserved: outcome Refused (rules R73, R140). -/
def execReserved7 (s : State) : Result := .next (s.refuse .host)

/-- Codes 8 to 15, reserved: outcome Refused, whatever the low bits (rules R73, R140). -/
def execReserved8To15 (_r : BitVec 3) (s : State) : Result := .next (s.refuse .host)

end Sys2Proof.Machine
end

