-- ==== Sys2Proof/Machine/Float64.lean ====
section
/-! DEFINITION. IEEE 754 binary64 as rule R11 uses it. A finite magnitude is a natural number of units of 2^-1074, the least
subnormal; products and quotients are computed exactly and rounded once. -/

namespace Sys2Proof.Machine

/-- `n / d` rounded to a natural number, to nearest, ties to even (rule R11, `rint_even`). -/
def roundHalfEven (n d : Nat) : Nat :=
  let q := n / d
  let r := n % d
  if 2 * r < d then q else if d < 2 * r then q + 1 else q + q % 2

namespace Float64

/-- The sign bit (rule R11). -/
def sign (x : F64) : Bool := x.getLsbD 63

/-- The 11 exponent bits (rule R11). -/
def expField (x : F64) : Nat := (x.extractLsb' 52 11).toNat

/-- The 52 fraction bits (rule R11). -/
def frac (x : F64) : Nat := (x.extractLsb' 0 52).toNat

/-- A NaN: exponent all ones, fraction not zero. -/
def isNaN (x : F64) : Bool := expField x == 2047 && frac x != 0

/-- Neither an infinity nor a NaN. -/
def isFinite (x : F64) : Bool := expField x != 2047

/-- One in units of 2^-1074. -/
def one : Nat := 2 ^ 1074

/-- The magnitude in units of 2^-1074. An infinity gets a value above every finite one, which is all `le` needs. -/
def mag (x : F64) : Nat :=
  if expField x = 0 then frac x else (2 ^ 52 + frac x) * 2 ^ (expField x - 1)

/-- The signed value in units of 2^-1074; both zeros give 0. -/
def value (x : F64) : Int := if sign x then -(mag x : Int) else mag x

/-- IEEE `<=`: false on a NaN, and `-0.0` equals `0.0` (rule R11). -/
def le (x y : F64) : Bool := !isNaN x && !isNaN y && decide (value x ≤ value y)

/-- The bits of the binary64 magnitude nearest the rational `n / d`, ties to the even significand; a magnitude that
rounds above every finite one gives infinity (rule R11, `F64(q)`). -/
def ofRat (n d : Nat) : F64 :=
  let scaled := n * one
  let e := Nat.log2 (scaled / d) - 52
  let bits := e * 2 ^ 52 + roundHalfEven scaled (d * 2 ^ e)
  BitVec.ofNat 64 (min bits (2047 * 2 ^ 52))

/-- The same magnitude with a sign. -/
def withSign (s : Bool) (x : F64) : F64 := if s then x ||| (1#64 <<< 63) else x

/-- The correctly rounded product of two finite numbers (rule R11, `fmul`); no rule multiplies others. -/
def fmul (x y : F64) : F64 := withSign (sign x ^^ sign y) (ofRat (mag x * mag y) (one * one))

/-- The correctly rounded quotient of two finite numbers, the second not zero (rule R11, `fdiv`); no rule divides
others. -/
def fdiv (x y : F64) : F64 := withSign (sign x ^^ sign y) (ofRat (mag x) (mag y))

/-- The binary64 of a natural number (rule R84, `F64(k)`). -/
def ofNat (k : Nat) : F64 := ofRat k 1

/-- `rint_even` of a finite number (rule R11). -/
def rintEven (x : F64) : Int :=
  if sign x then -(roundHalfEven (mag x) one : Int) else roundHalfEven (mag x) one

end Float64

end Sys2Proof.Machine
end

