-- ==== Sys2Proof/Machine/Codec.lean ====
section
/-! DEFINITION. The pure functions of Message and FrameCodec: `Violation`, equality, timestamp quantisation, `encode` and the
Message of a frame (rules R80 to R85, R90, R100). -/

namespace Sys2Proof.Machine

/-- The timestamp invariant `0.0 <= timestamp <= 4294967.295`, with IEEE comparisons (rules R11, R80). -/
def tsValid (t : F64) : Bool := Float64.le 0 t && Float64.le t Config.tsMax

/-- `Violation(m)`: the first violated invariant (rule R80). -/
def violation (m : Message) : Option RangeTag :=
  if Config.idMax < m.id.toNat then some .arbitrationId
  else if Config.maxDlc < m.data.length then some .payloadLength
  else if tsValid m.ts = false then some .timestamp
  else none

/-- `TsQuant(t)`, defined on valid timestamps (rule R83). -/
def tsQuant (t : F64) : Word32 := BitVec.ofInt 32 (Float64.rintEven (Float64.fmul t Config.msPerS))

/-- `TsDequant(k)` (rule R84). -/
def tsDequant (k : Word32) : F64 := Float64.fdiv (Float64.ofNat k.toNat) Config.msPerS

/-- Message equality: id, dlc and data; neither timestamp nor `is_extended_id` (rule R82). -/
def Message.equal (a b : Message) : Bool := a.id == b.id && a.data.length == b.data.length && a.data == b.data

/-- The frame of a Message that violates nothing (rules R60, R90). -/
def Message.frame (m : Message) : Frame := { ms := tsQuant m.ts, id := m.id.setWidth 29, data := m.data }

/-- `ENCODE(m)`: the tag of a RangeError, or the bytes of the frame (rule R90). -/
def encodeMessage (m : Message) : Except RangeTag (List Byte) :=
  match violation m with
  | some v => .error v
  | none => .ok (encodeFields m.frame)

/-- The Message of an accepted frame (rule R100). -/
def frameMessage (f : Frame) : Message :=
  { id := f.id.setWidth 32, data := f.data, ts := tsDequant f.ms, ext := true }

end Sys2Proof.Machine
end

