-- ==== Sys2Proof/Machine/Operands.lean ====
section
/-! DEFINITION. The operand and result registers as Messages and frames (rules R26, R27). -/

namespace Sys2Proof.Machine

/-- A register of `n` byte lanes that holds `bs` in its first lanes; the lanes beyond are unspecified and hold the free
bytes `fill` (rule R27; assumption log 8). -/
def lanes (n : Nat) (fill : Nat → Byte) (bs : List Byte) : Vector Byte n :=
  Vector.ofFn fun k => if h : k.val < bs.length then bs[k.val] else fill k.val

/-- The Message operand an operand register denotes (rule R26). Its data has `len` bytes; the bytes beyond the eighth
lane, which only an over-long operand has, are the free bytes `fill` (assumption log 9). -/
def MsgIn.operand (fill : Nat → Byte) (m : MsgIn) : Message where
  id := m.id
  data := (List.range m.len.toNat).map fun k => if h : k < 8 then m.data[k] else fill k
  ts := m.ts
  ext := m.ext

/-- What MSG_OUT holds after the outcome `Message(m)` with wire value `tsMs` (rule R27). -/
def MsgOut.ofMessage (fill : Nat → Byte) (m : Message) (tsMs : Word32) : MsgOut where
  id := m.id
  len := BitVec.ofNat 8 m.data.length
  data := lanes 8 fill m.data
  ts := m.ts
  ext := m.ext
  tsMs := tsMs

/-- What MSG_OUT holds after a frame was decoded (rules R27, R100). -/
def MsgOut.ofFrame (fill : Nat → Byte) (f : Frame) : MsgOut := .ofMessage fill (frameMessage f) f.ms

/-- What FRAME_OUT holds after ENCODE's `Ok(bytes)` (rules R27, R90). -/
def FrameOut.ofBytes (fill : Nat → Byte) (bs : List Byte) : FrameOut where
  bytes := lanes 19 fill bs
  len := BitVec.ofNat 5 bs.length

end Sys2Proof.Machine
end

