-- ==== Sys2Proof/Machine/MessageOps.lean ====
section
/-! DEFINITION. MSG.NEW and MSG.EQ (rules R81, R82). -/

namespace Sys2Proof.Machine

/-- The Message operand of MSG_IN; its bytes beyond the eighth lane are the next free value (rule R26). -/
def State.operand (s : State) : Message := s.msgIn.operand (Config.freeByte s.free)

/-- The Message operand of MSG_IN2; its bytes beyond the eighth lane are the free value after MSG_IN's (rule R26). -/
def State.operand2 (s : State) : Message := s.msgIn2.operand (Config.freeByte (s.free + 1))

/-- MSG.NEW: the operand's Message, unquantised, or the first violated invariant (rule R81). -/
def execMsgNew (s : State) : Result :=
  match violation s.operand with
  | some v => .next (s.endOp .host .rangeError (some v))
  | none =>
    .next { s.endOp .host .message none with
      msgOut := .ofMessage (Config.freeByte s.free) s.operand (tsQuant s.operand.ts)
      free := s.free + 1 }

/-- MSG.EQ: operands are not validated (rule R82). -/
def execMsgEq (s : State) : Result :=
  .next { s.endOp .host .ok none with eqOut := s.operand.equal s.operand2, free := s.free + 2 }

end Sys2Proof.Machine
end

