-- ==== Sys2Proof/Machine/CodecOps.lean ====
section
/-! DEFINITION. The host commands ENCODE and DECODE (rules R90, R102). -/

namespace Sys2Proof.Machine

/-- ENCODE: the frame of the operand, or the first violated invariant (rule R90). -/
def execEncode (s : State) : Result :=
  match encodeMessage s.operand with
  | .error v => .next (s.endOp .host .rangeError (some v))
  | .ok bytes =>
    .next { s.endOp .host .ok none with
      frameOut := .ofBytes (Config.freeByte s.free) bytes
      free := s.free + 1 }

/-- DECODE on the host's sequence and cursor; it does not touch `rxbuf`, `sp` or `fsm` (rule R102). -/
def execDecode (s : State) : Result :=
  match decodeBuffer s.build.earlyDlcReject s.decIn.buf s.decIn.pos with
  | (.needMore _, buf, pos) =>
    .next { s.endOp .host .needMoreData none with decOut := { s.decOut with buf := buf, pos := pos } }
  | (.frame f consumed frameEnd, buf, pos) =>
    .next { s.endOp .host .message none with
      msgOut := .ofFrame (Config.freeByte s.free) f
      decOut := { buf := buf, pos := pos, consumed := consumed, frameEnd := frameEnd }
      free := s.free + 1 }

end Sys2Proof.Machine
end

