-- ==== Sys2Proof/Machine/Frames.lean ====
section
/-! DEFINITION. The frame forms FRAME.D0 to FRAME.D8: acceptance and delivery by the RX engine (rules R100, R121). -/

namespace Sys2Proof.Machine

/-- Delivery of the frame of `n` data bytes whose START stands at `sp`, one indivisible step (rules R121, R103): the dead
bytes and the frame are dropped, the cursor and `fsm` return, and the Message is handed over on the RX port. -/
def deliver (n : Nat) (f : Frame) (s : State) : State :=
  let dropped := s.rxDrop (s.sp + Config.fixedLen + n)
  { dropped.endOp .rx .message none with
    fsm := .idle
    rxBusy := false
    rxMsgOut := .ofFrame (Config.freeByte s.free) f
    free := s.free + 1 }

/-- FRAME.D0 (rules R60, R121). -/
def execFrameD0 (f : Frame) (s : State) : Result := .next (deliver 0 f s)

/-- FRAME.D1 (rules R60, R121). -/
def execFrameD1 (f : Frame) (s : State) : Result := .next (deliver 1 f s)

/-- FRAME.D2 (rules R60, R121). -/
def execFrameD2 (f : Frame) (s : State) : Result := .next (deliver 2 f s)

/-- FRAME.D3 (rules R60, R121). -/
def execFrameD3 (f : Frame) (s : State) : Result := .next (deliver 3 f s)

/-- FRAME.D4 (rules R60, R121). -/
def execFrameD4 (f : Frame) (s : State) : Result := .next (deliver 4 f s)

/-- FRAME.D5 (rules R60, R121). -/
def execFrameD5 (f : Frame) (s : State) : Result := .next (deliver 5 f s)

/-- FRAME.D6 (rules R60, R121). -/
def execFrameD6 (f : Frame) (s : State) : Result := .next (deliver 6 f s)

/-- FRAME.D7 (rules R60, R121). -/
def execFrameD7 (f : Frame) (s : State) : Result := .next (deliver 7 f s)

/-- FRAME.D8 (rules R60, R121). -/
def execFrameD8 (f : Frame) (s : State) : Result := .next (deliver 8 f s)

end Sys2Proof.Machine
end

