-- ==== Sys2Proof/Machine/Transport.lean ====
section
/-! DEFINITION. SEND and RECV: the acceptance of the commands, and the engines' turns that carry them out (rules R110 to R115,
R118 to R127). One turn is one ChWrite or one ChRead with the rule steps around it (rule R152). -/

namespace Sys2Proof.Machine

/-- SEND up to its write loop: busy, broken, validation, in this order; then the frame is latched and the TX engine is in
flight (rules R110, R113, R142). The loop is `txTurn`. -/
def execSend (s : State) : Result :=
  if s.txBusy = true then .next (s.refuse .tx)
  else if s.broken = true then .next (s.endOp .tx .transportError none)
  else match encodeMessage s.operand with
    | .error v => .next (s.endOp .tx .rangeError (some v))
    | .ok bytes => .next { s with txframe := bytes, txoff := 0, txBusy := true, chan := s.chan.beginSend }

/-- RECV up to its loop: busy, broken, in this order; then the RX engine is in flight with its deadline not reached (rules
R118, R126, R142). The loop is `rxTurn`. -/
def execRecv (s : State) : Result :=
  if s.rxBusy = true then .next (s.refuse .rx)
  else if s.broken = true then .next (s.endOp .rx .transportError none)
  else .next { s with rxBusy := true, expired := false, rxTimeout := s.timeout, chan := s.chan.beginRecv }

/-- The end of a SEND whose last byte has been accepted (rules R110, R111). -/
def sendDone (s : State) : State := { s.endOp .tx .ok none with txBusy := false }

/-- A failed ChWrite or ChRead latches `broken`; the channel is as the failing call left it (rules R25, R112, R124). -/
def State.breakChannel (ch : Channel) (s : State) : State := { s with chan := ch, broken := true }

/-- `c` more bytes of the frame have been accepted (rule R111). -/
def txAdvance (c : Nat) (ch : Channel) (s : State) : State :=
  let s' := { s with chan := ch, txoff := s.txoff + c }
  if s'.txoff < s'.txframe.length then s' else sendDone s'

/-- One turn of the TX engine's write loop, which offers exactly the bytes not yet accepted (rules R110 to R112). An engine
with nothing in flight takes no step (rule R5). -/
def txTurn (s : State) : Result :=
  if s.txBusy = false then .next s
  else if s.txframe.length ≤ s.txoff then .next (sendDone s)
  else match chWrite s.chan (s.txframe.drop s.txoff) with
    | .waiting => .next s
    | .breach => .fault .channelBreach
    | .failed ch => .next { (s.breakChannel ch).endOp .tx .transportError none with txBusy := false }
    | .accepted c ch => .next (txAdvance c ch s)

/-- What the RX engine does after a DECODE that answered NeedMoreData: stop when the deadline has been seen, otherwise
one ChRead, whose whole answer is appended (rules R120, R122, R123, R124). -/
def rxNeedMore (s : State) : Result :=
  if s.expired = true then .next { s.endOp .rx .timedOut none with rxBusy := false }
  else match chRead s.chan s.build.maxRead.val s.rxTimeout with
    | .waiting => .next s
    | .breach => .fault .channelBreach
    | .failed ch => .next { (s.breakChannel ch).endOp .rx .transportError none with rxBusy := false }
    | .bytes bs e ch => .next { s.rxAppend bs with chan := ch, expired := e }

/-- What a step does: run an instruction in a state, or something that is no instruction. -/
inductive Fetch where
  | run (i : Instr) (s : State)
  | done (r : Result)

/-- One turn of the RX engine's loop (rules R118, R120, R125). DECODE is run on `rxbuf` from `sp`, and its buffer and cursor
are written back. The frame it finds is the instruction fetched at `sp`; `fsm` is FrameComplete until that
instruction has run. -/
def rxTurn (s : State) : Fetch :=
  if s.rxBusy = false then .done (.next s)
  else match decodeBuffer s.build.earlyDlcReject s.rxbuf s.sp with
    | (.frame f _ _, buf, pos) => .run f.instr { s with rxbuf := buf, sp := pos, fsm := .frameComplete }
    | (.needMore arm, buf, pos) => .done (rxNeedMore { s with rxbuf := buf, sp := pos, fsm := arm.fsm })

/-- Whether the TX engine, left to itself, would move: it is in flight and its channel has an answer (assumption
log 19). -/
def txReady (s : State) : Bool :=
  s.txBusy && (!s.chan.writable || s.chan.kind == .loopback || !s.chan.writes.isEmpty || decide (s.txframe.length ≤ s.txoff))

/-- With an empty schedule the engines in flight move by themselves, the TX engine first while it can; otherwise the block
waits (rules R160, R176; assumption log 19). -/
def freeRun (s : State) : Fetch := if txReady s = true then .done (txTurn s) else rxTurn s

/-- What the next step does (assumption logs 1, 2). An issued command is accepted before anything else moves, so its
operands are the ones it was issued with (rules R26, R164). -/
def fetch (s : State) : Fetch :=
  if s.cmdIssued = true then .run (decodeCommand s.cmd) { s with cmdIssued := false }
  else match s.inputs with
    | .host a :: rest => .done (.next ({ s with inputs := rest }.hostAction a))
    | .txTurn :: rest => .done (txTurn { s with inputs := rest })
    | .rxTurn :: rest => rxTurn { s with inputs := rest }
    | [] => freeRun s

end Sys2Proof.Machine
end

