-- ==== Sys2Proof/Machine/Dispatch.lean ====
section
/-! DEFINITION. One arm per instruction of the opcode table. -/

namespace Sys2Proof.Machine

def exec (i : Instr) (s : State) : Host.Outcome State Fault Refusal :=
  match i with
  | .nop => Sys2Proof.Machine.execNop s
  | .msgNew => Sys2Proof.Machine.execMsgNew s
  | .msgEq => Sys2Proof.Machine.execMsgEq s
  | .encode => Sys2Proof.Machine.execEncode s
  | .decode => Sys2Proof.Machine.execDecode s
  | .send => Sys2Proof.Machine.execSend s
  | .recv => Sys2Proof.Machine.execRecv s
  | .reserved7 => Sys2Proof.Machine.execReserved7 s
  | .reserved8To15 r => Sys2Proof.Machine.execReserved8To15 r s
  | .frameD0 f => Sys2Proof.Machine.execFrameD0 f s
  | .frameD1 f => Sys2Proof.Machine.execFrameD1 f s
  | .frameD2 f => Sys2Proof.Machine.execFrameD2 f s
  | .frameD3 f => Sys2Proof.Machine.execFrameD3 f s
  | .frameD4 f => Sys2Proof.Machine.execFrameD4 f s
  | .frameD5 f => Sys2Proof.Machine.execFrameD5 f s
  | .frameD6 f => Sys2Proof.Machine.execFrameD6 f s
  | .frameD7 f => Sys2Proof.Machine.execFrameD7 f s
  | .frameD8 f => Sys2Proof.Machine.execFrameD8 f s

end Sys2Proof.Machine
end

