-- ==== Sys2Proof/Machine/Step.lean ====
section
/-! DEFINITION. One step of the machine, and how a given instruction is put where the step fetches. -/

namespace Sys2Proof.Machine

/-- One step: the instruction that is fetched runs, or an agent takes another step (rule R5). -/
def step (s : State) : Host.Outcome State Fault Refusal :=
  match fetch s with
  | .run i s' => exec i s'
  | .done r => r

/-- The instruction of an opcode-table row stored where the next step fetches it: a command in CMD, issued; a frame at the
head of `rxbuf`, with a RECV in flight and the next turn the RX engine's (assumption log 2). -/
def State.withFetchWord (s : State) (nbits w : Nat) : State :=
  match tableFetched nbits w with
  | .command c => { s with cmd := c, cmdIssued := true }
  | .frame bytes =>
    { s with cmdIssued := false, inputs := .rxTurn :: s.inputs, rxBusy := true, rxbuf := bytes, sp := 0 }

end Sys2Proof.Machine
end

