-- ==== Sys2Proof/Safety.lean ====
section
/-! DEFINITION. What claims about runs are stated in: the state a step answers, the invariant of rule R31, the discard of dead
bytes of rule R32, and the Messages a stream of bytes holds (rule R104). -/

namespace Sys2Proof.Machine

/-- The state a step answers, if it answers one. -/
def nextState? : Result → Option State
  | .next s => some s
  | .fault _ => none
  | .refused _ => none

/-- `n` steps, stopping at the first fault or refusal. -/
def steps : Nat → State → Result
  | 0, s => .next s
  | n + 1, s =>
    match step s with
    | .next t => steps n t
    | .fault r => .fault r
    | .refused r => .refused r

/-- What a tag register holds beside its status register (rules R27, R74): a tag with RangeError, and 0 with every other
outcome of an operation. A refused command leaves the tag as it was (rule R140; assumption log 11). -/
abbrev TagAgrees (status : BitVec 3) (tag : BitVec 2) : Prop :=
  (status = Status.rangeError.code → tag ≠ 0) ∧
    (status ≠ Status.rangeError.code → status ≠ Status.refused.code → tag = 0)

/-- The invariants of rule R31 that hold at every instant, what rules R27, R28, R74 and R91 (E4) say of the registers, and
what rule R52 says of the loopback channel. -/
structure State.Inv (s : State) : Prop where
  /-- (I1): the cursor is an index of the buffer or its end. -/
  cursor : Memory.wf s
  /-- (I4): `fsm` is FrameComplete at no instant the host can observe. -/
  fsm : s.fsm ≠ .frameComplete
  /-- A SEND in flight has bytes left to write, and what it writes is a frame of 11 to 19 bytes. -/
  tx : s.txBusy = true →
    s.txoff < s.txframe.length ∧ Config.minFrame ≤ s.txframe.length ∧ s.txframe.length ≤ Config.maxFrame ∧
      ∃ i, decode (.frame s.txframe) = .ok i
  /-- `ERR_TAG` is not 0 while `STATUS` is RangeError, and is 0 while it is anything else but Refused. -/
  tag : TagAgrees s.status s.errTag
  /-- The same of the TX engine's copies. -/
  txTag : TagAgrees s.txStatus s.txErrTag
  /-- The RX stream of a loopback channel is its TX stream: what has not been read is the end of what was written. -/
  loopback : s.chan.kind = .loopback → s.chan.rxStream <:+ s.chan.txStream
  /-- A loopback channel fails only by being closed. -/
  loopbackUp : s.chan.kind = .loopback → s.chan.writeFailed = false ∧ s.chan.readFailed = false

/-- The state with its dead bytes discarded (rule R32). -/
def State.compact (s : State) : State := { s with rxbuf := s.rxbuf.drop s.sp, sp := 0 }

/-- Two answers of a step that differ in dead bytes only (rule R32). -/
def Result.sameLive : Result → Result → Prop
  | .next a, .next b => a.compact = b.compact
  | .fault r, .fault r' => r = r'
  | .refused r, .refused r' => r = r'
  | _, _ => False

/-- The input that is next is a reset of the block (rules R160, R163). -/
def State.resetNext (s : State) : Prop :=
  s.cmdIssued = false ∧
    ((∃ rest, s.inputs = .host .rst :: rest) ∨ ∃ c rest, s.inputs = .host (.recreate c) :: rest)

/-- At most `fuel` deliveries from the live bytes. -/
def drainLoop (early : Bool) : Nat → List Byte → List Frame × List Byte
  | 0, live => ([], live)
  | fuel + 1, live =>
    match decodeBuffer early live 0 with
    | (.needMore _, buf, pos) => ([], buf.drop pos)
    | (.frame f _ frameEnd, buf, _) =>
      (f :: (drainLoop early fuel (buf.drop frameEnd)).1, (drainLoop early fuel (buf.drop frameEnd)).2)

/-- DECODE, and drop on Frame, until it answers NeedMoreData: the frames delivered and the live suffix left (rule R104,
P2). -/
def drain (early : Bool) (live : List Byte) : List Frame × List Byte := drainLoop early (live.length + 1) live

/-- What delivery of the frame `f` answers (rules R27, R100, R121): the dead bytes and the frame leave the buffer, cursor and
`fsm` return, the RECV is over, the RX port holds the Message, and nothing else changes but the free-value counter. The
lanes beyond `len` are not said (rule R27: unspecified). -/
def DeliversFrame (f : Frame) (s : State) (r : Result) : Prop :=
  ∃ (out : MsgOut) (n : Nat),
    r = .next { s with rxbuf := s.rxbuf.drop (s.sp + 11 + f.data.length), sp := 0, fsm := .idle, rxBusy := false, rxStatus := 2, rxMsgOut := out, free := n } ∧
    out.id = f.id.setWidth 32 ∧ out.len.toNat = f.data.length ∧ out.data.toList.take f.data.length = f.data ∧
    out.ts = tsDequant f.ms ∧ out.tsMs = f.ms ∧ out.ext = true

/-- `p` is the least index at or after `pos` that holds START (rule R96). -/
def IsFirstStart (buf : List Byte) (pos p : Nat) : Prop :=
  pos ≤ p ∧ buf[p]? = some Config.startByte ∧ ∀ i, pos ≤ i → i < p → buf[i]? ≠ some Config.startByte

/-- The START at `i` heads, within `buf`, a candidate that is complete and invalid, or is rejected early for its `dlc`
(rule R104, P3). -/
def RejectedAt (early : Bool) (buf : List Byte) (i : Nat) : Prop :=
  i + Config.fixedLen ≤ buf.length ∧
    ((early = true ∧ Config.maxDlc < (buf.getD (i + 5) 0).toNat) ∨
      (i + Config.fixedLen + (buf.getD (i + 5) 0).toNat ≤ buf.length ∧
        ∀ f rest, decodeFields (buf.drop i) ≠ .ok (f, rest)))

end Sys2Proof.Machine
end

