-- ==== Sys2Proof/Certificates/Slice0/Obligations.lean ====
section
/-! DEFINITION. The statements for the provers. Each follows numbered rules of the specification; a step's result is written as
the old state with exactly the fields that change, so that every statement of a result is also its frame. -/

open Sys2Proof Sys2Proof.Machine

/-! ### Encoding -/

/-- Decode and encode agree on every well-formed instruction of the table (rules R68, R73). -/
def Obligations.DecodeEncodeRoundTrip : Prop :=
  ∀ i : Instr, i.WellFormed → decode (encode i) = .ok i

/-- The command codes of rule R73, and decoding the frame FRAME.D1 of rule R68 written out byte by byte (vector F5). -/
def Obligations.SampleWordsDecode : Prop :=
  decode (.command 0b0000) = .ok .nop ∧ decode (.command 0b0001) = .ok .msgNew ∧ decode (.command 0b0010) = .ok .msgEq ∧
  decode (.command 0b0011) = .ok .encode ∧ decode (.command 0b0100) = .ok .decode ∧ decode (.command 0b0101) = .ok .send ∧
  decode (.command 0b0110) = .ok .recv ∧ decode (.command 0b0111) = .ok .reserved7 ∧
  decode (.command 0b1011) = .ok (.reserved8To15 3) ∧
  decode (.frame [0xAA, 0x00, 0x00, 0x00, 0xFA, 0x01, 0x00, 0x00, 0x00, 0x10, 0x7F, 0xBB]) =
    .ok (.frameD1 { ms := 250, id := 0x10, data := [0x7F] }) ∧
  decode (.frame [0xAA, 0x00, 0x00, 0x00, 0x00, 0x00, 0x20, 0x00, 0x00, 0x00, 0xBB]) = .error .reservedBits

/-- A frame has `11 + dlc` bytes, between 11 and 19 (rule R61), and the fixed bytes of rule R91 (E2). -/
def Obligations.FrameLengthAndShape : Prop :=
  ∀ f : Frame, f.data.length ≤ 8 →
    (encodeFields f).length = 11 + f.data.length ∧ 11 ≤ (encodeFields f).length ∧ (encodeFields f).length ≤ 19 ∧
    (encodeFields f)[0]? = some 0xAA ∧ (encodeFields f)[5]? = some (BitVec.ofNat 8 f.data.length) ∧
    (∃ b, (encodeFields f)[6]? = some b ∧ b.toNat ≤ 0x1F) ∧ (encodeFields f)[10 + f.data.length]? = some 0xBB

/-- Big-endian assembly of a 32-bit field, and where a frame's fields stand (rules R10, R42). -/
def Obligations.WireFieldsAreBigEndian : Prop :=
  (∀ b0 b1 b2 b3 : Byte,
    (be32 b0 b1 b2 b3).toNat = b0.toNat * 2 ^ 24 + b1.toNat * 2 ^ 16 + b2.toNat * 2 ^ 8 + b3.toNat ∧
    bytesBe32 (be32 b0 b1 b2 b3) = [b0, b1, b2, b3]) ∧
  (∀ v : Word32,
    bytesBe32 v = [v.extractLsb' 24 8, v.extractLsb' 16 8, v.extractLsb' 8 8, v.extractLsb' 0 8] ∧
    be32 (v.extractLsb' 24 8) (v.extractLsb' 16 8) (v.extractLsb' 8 8) (v.extractLsb' 0 8) = v) ∧
  ∀ f : Frame, f.data.length ≤ 8 →
    slice (encodeFields f) 1 4 = bytesBe32 f.ms ∧ slice (encodeFields f) 6 4 = bytesBe32 (f.id.setWidth 32) ∧
    ∀ k, k < f.data.length → (encodeFields f)[10 + k]? = f.data[k]?

/-- The bytes a frame is decoded from are its encoding: no bit of a frame is ignored (rules R68, R72). -/
def Obligations.DecodedBytesAreTheFrame : Prop :=
  ∀ (bs : List Byte) (f : Frame) (rest : List Byte), decodeFields bs = .ok (f, rest) →
    bs = encodeFields f ++ rest ∧ f.data.length ≤ 8

/-- The encoding is canonical: two valid Messages have the same frame exactly when they agree in id, data and quantised
timestamp, and a valid candidate is the frame of the Message DECODE returns for it (rule R72). -/
def Obligations.EncodingIsCanonical : Prop :=
  (∀ a b : Message, violation a = none → violation b = none →
    (encodeMessage a = encodeMessage b ↔ a.id = b.id ∧ a.data = b.data ∧ tsQuant a.ts = tsQuant b.ts)) ∧
  ∀ (bs : List Byte) (f : Frame), decodeFields bs = .ok (f, []) → encodeMessage (frameMessage f) = .ok bs

/-! ### Message operations -/

/-- The three invariants and the order they are tested in (rule R80). -/
def Obligations.ViolationNamesTheFirst : Prop :=
  ∀ m : Message,
    (violation m = some .arbitrationId ↔ 536870911 < m.id.toNat) ∧
    (violation m = some .payloadLength ↔ m.id.toNat ≤ 536870911 ∧ 8 < m.data.length) ∧
    (violation m = some .timestamp ↔ m.id.toNat ≤ 536870911 ∧ m.data.length ≤ 8 ∧
      ¬ (Float64.le 0 m.ts = true ∧ Float64.le m.ts 0x4150624DD2E147AE = true)) ∧
    (violation m = none ↔ m.id.toNat ≤ 536870911 ∧ m.data.length ≤ 8 ∧
      Float64.le 0 m.ts = true ∧ Float64.le m.ts 0x4150624DD2E147AE = true)

/-- The valid timestamps are the bit patterns from `+0.0` to `F64(4294967.295)`, and `-0.0` (rules R11, R80). -/
def Obligations.ValidTimestampBitPatterns : Prop :=
  ∀ t : F64, tsValid t = true ↔ t.toNat ≤ 0x4150624DD2E147AE ∨ t = 0x8000000000000000

/-- The boundary timestamps of rule R80, its NaN, infinities and negative zero, and the ties of rule R85 (L6), as the bit
patterns of the tables X and T of 95_test_vectors.md. -/
def Obligations.TimestampTables : Prop :=
  tsValid 0x4150624DD2E147AE = true ∧ tsValid 0x4150624DD2E147AF = false ∧ tsValid 0x4150624DD2F1A9FC = false ∧
  tsValid 0xBEB0C6F7A0B5ED8D = false ∧ tsValid 0x7FF8000000000000 = false ∧ tsValid 0x7FF0000000000000 = false ∧
  tsValid 0xFFF0000000000000 = false ∧ tsValid 0x8000000000000000 = true ∧ tsValid 0x8000000000000001 = false ∧
  tsQuant 0x3F40624DD2F1A9FC = 0 ∧ tsQuant 0x3F589374BC6A7EFA = 2 ∧ tsQuant 0x3F647AE147AE147B = 2 ∧
  tsQuant 0x3FB0000000000000 = 62 ∧ tsQuant 0x3FC8000000000000 = 188 ∧ tsQuant 0x4150624DD2D91687 = 4294967294 ∧
  tsQuant 0x4150624DD2E147AE = 4294967295 ∧ tsQuant 0x8000000000000000 = 0 ∧ tsDequant 0 = 0 ∧
  tsDequant 4294967295 = 0x4150624DD2E147AE ∧ tsDequant 12345 = 0x4028B0A3D70A3D71

/-- Law L1 of rule R85: a wire value survives the round trip through seconds. -/
def Obligations.QuantUndoesDequant : Prop :=
  ∀ k : Word32, tsQuant (tsDequant k) = k

/-- Law L3 of rule R85 for both functions, on valid timestamps. -/
def Obligations.QuantAndDequantAreMonotone : Prop :=
  (∀ a b : F64, tsValid a = true → tsValid b = true → Float64.le a b = true → (tsQuant a).toNat ≤ (tsQuant b).toNat) ∧
  ∀ j k : Word32, j.toNat ≤ k.toNat → Float64.le (tsDequant j) (tsDequant k) = true

/-- Every Message a frame denotes is valid (rules R21, R85 L2). -/
def Obligations.DecodedMessagesAreValid : Prop :=
  ∀ (bs : List Byte) (f : Frame) (rest : List Byte), decodeFields bs = .ok (f, rest) → violation (frameMessage f) = none

/-- MSG.NEW hands the field values of a valid operand back, unquantised, with the wire value beside them; an operand that
violates an invariant ends it with RangeError and the first tag; nothing else changes (rules R27, R81). The lanes beyond
`len` are not said (rule R27: unspecified). -/
def Obligations.MsgNewHandsBackTheOperand : Prop :=
  ∀ s : State,
    (s.msgIn.id.toNat ≤ 536870911 → s.msgIn.len.toNat ≤ 8 → tsValid s.msgIn.ts = true →
      ∃ (out : MsgOut) (n : Nat),
        exec .msgNew s = .next { s with status := 2, errTag := 0, msgOut := out, free := n } ∧
        out.id = s.msgIn.id ∧ out.len = s.msgIn.len ∧ out.ts = s.msgIn.ts ∧ out.ext = s.msgIn.ext ∧
        out.tsMs = tsQuant s.msgIn.ts ∧ ∀ (k : Nat) (h : k < 8), k < s.msgIn.len.toNat → out.data[k] = s.msgIn.data[k]) ∧
    ∀ v, violation s.operand = some v → exec .msgNew s = .next { s with status := 5, errTag := v.code }

/-- MSG.NEW and ENCODE on an invalid operand: RangeError with the first violated tag, nothing else changed (rules R80, R136,
R145). -/
def Obligations.InvalidOperandIsRangeError : Prop :=
  ∀ (s : State) (i : Instr), i = .msgNew ∨ i = .encode →
    (536870911 < s.msgIn.id.toNat → exec i s = .next { s with status := 5, errTag := 1 }) ∧
    (s.msgIn.id.toNat ≤ 536870911 → 8 < s.msgIn.len.toNat → exec i s = .next { s with status := 5, errTag := 2 }) ∧
    (s.msgIn.id.toNat ≤ 536870911 → s.msgIn.len.toNat ≤ 8 → tsValid s.msgIn.ts = false →
      exec i s = .next { s with status := 5, errTag := 3 })

/-- MSG.EQ compares id, dlc and data, nothing else, and changes only its results (rule R82). Between two operands of equal
length above 8 whose visible parts agree the result is not said (rule R26 gives no such byte; assumption log 9). -/
def Obligations.MsgEqComparesIdAndData : Prop :=
  ∀ s : State, ∃ (e : Bool) (n : Nat),
    exec .msgEq s = .next { s with status := 1, errTag := 0, eqOut := e, free := n } ∧
    (e = true → s.msgIn.id = s.msgIn2.id ∧ s.msgIn.len = s.msgIn2.len ∧
      ∀ (k : Nat) (h : k < 8), k < s.msgIn.len.toNat → s.msgIn.data[k] = s.msgIn2.data[k]) ∧
    (s.msgIn.len.toNat ≤ 8 → s.msgIn.id = s.msgIn2.id → s.msgIn.len = s.msgIn2.len →
      (∀ (k : Nat) (h : k < 8), k < s.msgIn.len.toNat → s.msgIn.data[k] = s.msgIn2.data[k]) → e = true)

/-! ### Encoder and decoder commands -/

/-- ENCODE puts the frame of a valid operand and its length in FRAME_OUT; an operand that violates an invariant ends it with
RangeError and the first tag; nothing else changes (rule R90). -/
def Obligations.EncodeWritesTheFrame : Prop :=
  ∀ s : State,
    (s.msgIn.id.toNat ≤ 536870911 → s.msgIn.len.toNat ≤ 8 → tsValid s.msgIn.ts = true →
      ∃ (out : FrameOut) (n : Nat),
        exec .encode s = .next { s with status := 1, errTag := 0, frameOut := out, free := n } ∧
        out.len.toNat = 11 + s.msgIn.len.toNat ∧
        out.bytes.toList.take (11 + s.msgIn.len.toNat) =
          [0xAA] ++ bytesBe32 (tsQuant s.msgIn.ts) ++ [s.msgIn.len] ++ bytesBe32 s.msgIn.id ++
            s.msgIn.data.toList.take s.msgIn.len.toNat ++ [0xBB]) ∧
    ∀ v, violation s.operand = some v → exec .encode s = .next { s with status := 5, errTag := v.code }

/-- The DECODE command: NeedMoreData, or the Message of the frame DECODE found with `consumed` and `end`; it touches no
state of the receiver (rules R100, R102, R103). -/
def Obligations.DecodeCommandReportsTheFrame : Prop :=
  ∀ s : State,
    (∀ arm buf pos, decodeBuffer s.build.earlyDlcReject s.decIn.buf s.decIn.pos = (.needMore arm, buf, pos) →
      exec .decode s = .next { s with status := 4, errTag := 0, decOut := { s.decOut with buf := buf, pos := pos } }) ∧
    ∀ f consumed frameEnd buf pos,
      decodeBuffer s.build.earlyDlcReject s.decIn.buf s.decIn.pos = (.frame f consumed frameEnd, buf, pos) →
      ∃ (out : MsgOut) (n : Nat),
        exec .decode s = .next { s with status := 2, errTag := 0, msgOut := out, free := n, decOut := { buf := buf, pos := pos, consumed := consumed, frameEnd := frameEnd } } ∧
        out.id = f.id.setWidth 32 ∧ out.len.toNat = f.data.length ∧ out.ts = tsDequant f.ms ∧ out.ext = true ∧
        out.tsMs = f.ms ∧ ∀ (k : Nat) (h : k < 8) (h' : k < f.data.length), out.data[k] = f.data[k]

/-- DECODE1 arm by arm: no START, short header, short frame (early rejection as the parameter says), accepted, rejected,
with the Message of an accepted candidate (rules R95 to R101). -/
def Obligations.DecodeOneCandidateArms : Prop :=
  ∀ (early : Bool) (buf : List Byte) (pos : Nat), pos ≤ buf.length →
    ((∀ i, pos ≤ i → buf[i]? ≠ some 0xAA) → decode1 early buf pos = (.needMore .noStart, [], 0)) ∧
    ∀ p, IsFirstStart buf pos p →
      (buf.length - p < 11 → decode1 early buf pos = (.needMore .header, buf, p)) ∧
      (11 ≤ buf.length - p → buf.length - p < 11 + (buf.getD (p + 5) 0).toNat →
        decode1 early buf pos =
          if early = true ∧ 8 < (buf.getD (p + 5) 0).toNat then (.corrupt, buf, p + 1) else (.needMore .frame, buf, p)) ∧
      (11 + (buf.getD (p + 5) 0).toNat ≤ buf.length - p →
        if (buf.getD (p + 5) 0).toNat ≤ 8 ∧ (buf.getD (p + 6) 0).toNat ≤ 0x1F ∧
            buf.getD (p + 10 + (buf.getD (p + 5) 0).toNat) 0 = 0xBB then
          ∃ f : Frame,
            decode1 early buf pos =
              (.frame f (11 + (buf.getD (p + 5) 0).toNat) (p + 11 + (buf.getD (p + 5) 0).toNat), buf, p) ∧
            frameMessage f =
              { id := be32 (buf.getD (p + 6) 0) (buf.getD (p + 7) 0) (buf.getD (p + 8) 0) (buf.getD (p + 9) 0)
                data := slice buf (p + 10) (buf.getD (p + 5) 0).toNat
                ts := tsDequant (be32 (buf.getD (p + 1) 0) (buf.getD (p + 2) 0) (buf.getD (p + 3) 0) (buf.getD (p + 4) 0))
                ext := true }
        else decode1 early buf pos = (.corrupt, buf, p + 1))

/-- DECODE is DECODE1 repeated while it answers Corrupt, from any cursor of the buffer (rule R102). -/
def Obligations.DecodeRepeatsWhileCorrupt : Prop :=
  ∀ (early : Bool) (buf : List Byte) (pos : Nat), pos ≤ buf.length →
    decodeBuffer early buf pos =
      match decode1 early buf pos with
      | (.needMore arm, buf', pos') => (.needMore arm, buf', pos')
      | (.frame f consumed frameEnd, buf', pos') => (.frame f consumed frameEnd, buf', pos')
      | (.corrupt, buf', pos') => decodeBuffer early buf' pos'

/-- What DECODE leaves when it answers NeedMoreData, and how many bytes stay live (rules R31 I2, R105). -/
def Obligations.NeedMoreDataLeavesFewLiveBytes : Prop :=
  ∀ (early : Bool) (buf : List Byte) (pos : Nat) (arm : NeedArm) (buf' : List Byte) (pos' : Nat),
    decodeBuffer early buf pos = (.needMore arm, buf', pos') →
    match arm with
    | .noStart => buf' = [] ∧ pos' = 0
    | .header => buf' = buf ∧ pos ≤ pos' ∧ buf'[pos']? = some 0xAA ∧ buf'.length - pos' ≤ 10
    | .frame => buf' = buf ∧ pos ≤ pos' ∧ buf'[pos']? = some 0xAA ∧ 11 ≤ buf'.length - pos' ∧
        buf'.length - pos' ≤ if early = true then 18 else 265

/-- What DECODE answers with a Frame: an intact frame stands at the cursor it leaves, `consumed` is the frame's own length
and `end` the index after its END byte (rules R100, R102, R103). -/
def Obligations.DecodedFrameStandsAtTheCursor : Prop :=
  ∀ (early : Bool) (buf : List Byte) (pos : Nat) (f : Frame) (consumed frameEnd : Nat) (buf' : List Byte) (p : Nat),
    decodeBuffer early buf pos = (.frame f consumed frameEnd, buf', p) →
    buf' = buf ∧ pos ≤ p ∧ f.data.length ≤ 8 ∧ consumed = 11 + f.data.length ∧ frameEnd = p + consumed ∧
      frameEnd ≤ buf.length ∧ slice buf p consumed = encodeFields f

/-- Round trip of the codec: DECODE on the bytes of ENCODE gives the Message back, its timestamp quantised, and MSG.EQ
finds it equal (rule R92). -/
def Obligations.DecodeUndoesEncode : Prop :=
  ∀ (early : Bool) (m : Message), violation m = none →
    ∃ (bytes : List Byte) (f : Frame),
      encodeMessage m = .ok bytes ∧
      decodeBuffer early bytes 0 = (.frame f (11 + m.data.length) (11 + m.data.length), bytes, 0) ∧
      frameMessage f = { id := m.id, data := m.data, ts := tsDequant (tsQuant m.ts), ext := true } ∧
      m.equal (frameMessage f) = true

/-- Resynchronisation: behind noise whose every START heads a candidate that is rejected, the frame is found, whatever
follows it (rule R104, P3). -/
def Obligations.FrameBehindRejectedNoiseIsFound : Prop :=
  ∀ (early : Bool) (noise : List Byte) (f : Frame) (after : List Byte), f.data.length ≤ 8 →
    (∀ i, i < noise.length → noise[i]? = some 0xAA → RejectedAt early (noise ++ encodeFields f) i) →
    decodeBuffer early (noise ++ encodeFields f ++ after) 0 =
      (.frame f (11 + f.data.length) (noise.length + 11 + f.data.length), noise ++ encodeFields f ++ after, noise.length)

/-- Chunk independence: the Messages a byte stream delivers and the live suffix it leaves do not depend on where the stream
is cut (rules R43, R104 P2). -/
def Obligations.DeliveryIsChunkIndependent : Prop :=
  ∀ (early : Bool) (a b : List Byte),
    drain early (a ++ b) =
      ((drain early a).1 ++ (drain early ((drain early a).2 ++ b)).1, (drain early ((drain early a).2 ++ b)).2)

/-! ### The command port -/

/-- NOP: no operation, no outcome, no state change (rule R73). -/
def Obligations.NopChangesNothing : Prop :=
  ∀ s : State, exec .nop s = .next s

/-- A reserved command code is Refused and changes no state but the status register of its port, its tag register included
(rules R73, R140; how rule R27 is read beside them is assumption log 11). -/
def Obligations.ReservedCodesAreRefused : Prop :=
  ∀ (s : State) (r : BitVec 3),
    exec .reserved7 s = .next { s with status := 7 } ∧
    exec (.reserved8To15 r) s = .next { s with status := 7 }

/-- A step accepts an issued command before anything else moves, and runs the instruction its code decodes to (rules R26,
R73; the handshake is assumption log 2). -/
def Obligations.StepRunsTheIssuedCommand : Prop :=
  ∀ (s : State) (i : Instr), s.cmdIssued = true → decode (.command s.cmd) = .ok i →
    step s = exec i { s with cmdIssued := false }

/-- On the RX engine's turn with a RECV in flight, a step is `exec` of the instruction of the frame that DECODE finds, at `sp`
or behind bytes it skips, with the cursor at that frame; bytes at `sp` that begin with a frame are found there (rules
R100, R102, R103, R121; that a turn is a step and a frame an instruction are assumption logs 1, 2 and 16). -/
def Obligations.StepRunsTheFrameAtTheCursor : Prop :=
  ∀ (s : State) (f : Frame) (rest : List Input), s.cmdIssued = false → s.inputs = .rxTurn :: rest → s.rxBusy = true →
    (∀ consumed frameEnd buf p,
      decodeBuffer s.build.earlyDlcReject s.rxbuf s.sp = (.frame f consumed frameEnd, buf, p) →
      f.instr.WellFormed ∧ buf = s.rxbuf ∧ s.sp ≤ p ∧ decode (.frame (slice s.rxbuf p consumed)) = .ok f.instr ∧
        step s = exec f.instr { s with inputs := rest, rxbuf := buf, sp := p, fsm := .frameComplete }) ∧
    ∀ after, decodeFields (s.rxbuf.drop s.sp) = .ok (f, after) →
      f.instr.WellFormed ∧ step s = exec f.instr { s with inputs := rest, fsm := .frameComplete }

/-- The nine frame forms: each well-formed frame instruction is delivery, one step (rules R60, R100, R121). That `exec` of a
frame form is delivery in every state, a RECV in flight or not, is the model's reading (assumption log 16). -/
def Obligations.EveryFrameFormIsDelivered : Prop :=
  ∀ (s : State) (f : Frame),
    (f.data.length = 0 → DeliversFrame f s (exec (.frameD0 f) s)) ∧
    (f.data.length = 1 → DeliversFrame f s (exec (.frameD1 f) s)) ∧
    (f.data.length = 2 → DeliversFrame f s (exec (.frameD2 f) s)) ∧
    (f.data.length = 3 → DeliversFrame f s (exec (.frameD3 f) s)) ∧
    (f.data.length = 4 → DeliversFrame f s (exec (.frameD4 f) s)) ∧
    (f.data.length = 5 → DeliversFrame f s (exec (.frameD5 f) s)) ∧
    (f.data.length = 6 → DeliversFrame f s (exec (.frameD6 f) s)) ∧
    (f.data.length = 7 → DeliversFrame f s (exec (.frameD7 f) s)) ∧
    (f.data.length = 8 → DeliversFrame f s (exec (.frameD8 f) s))

/-! ### SEND -/

/-- SEND on a valid operand, engine free and channel not broken: the frame of rule R90 is latched, none of it written, and
the TX engine is in flight (rule R110). That `exec` stops before the write loop, and that the
channel's record of a failure is carried over here, are the model's (assumption logs 23 and 25). -/
def Obligations.SendLatchesTheFrame : Prop :=
  ∀ s : State, s.txBusy = false → s.broken = false →
    s.msgIn.id.toNat ≤ 536870911 → s.msgIn.len.toNat ≤ 8 → tsValid s.msgIn.ts = true →
    exec .send s = .next { s with txBusy := true, txoff := 0, chan := { s.chan with writeFailed := s.chan.writeFailed || s.chan.readFailed }, txframe := [0xAA] ++ bytesBe32 (tsQuant s.msgIn.ts) ++ [s.msgIn.len] ++ bytesBe32 s.msgIn.id ++ s.msgIn.data.toList.take s.msgIn.len.toNat ++ [0xBB] }

/-- SEND that starts nothing: the order of its tests is busy, broken, validation, and each changes only the TX status
registers, a refused one TX_STATUS alone (rules R27, R110, R113, R140, R142, R143; assumption log 11). -/
def Obligations.SendTestsBusyThenBrokenThenRange : Prop :=
  ∀ s : State,
    (s.txBusy = true → exec .send s = .next { s with txStatus := 7 }) ∧
    (s.txBusy = false → s.broken = true → exec .send s = .next { s with txStatus := 6, txErrTag := 0 }) ∧
    (s.txBusy = false → s.broken = false → 536870911 < s.msgIn.id.toNat →
      exec .send s = .next { s with txStatus := 5, txErrTag := 1 }) ∧
    (s.txBusy = false → s.broken = false → s.msgIn.id.toNat ≤ 536870911 → 8 < s.msgIn.len.toNat →
      exec .send s = .next { s with txStatus := 5, txErrTag := 2 }) ∧
    (s.txBusy = false → s.broken = false → s.msgIn.id.toNat ≤ 536870911 → s.msgIn.len.toNat ≤ 8 →
      tsValid s.msgIn.ts = false → exec .send s = .next { s with txStatus := 5, txErrTag := 3 })

/-- One ChWrite of the write loop: exactly the bytes not yet accepted are offered, the first `c` of them join the TX stream,
and the SEND ends with Ok exactly when none is left (rules R45, R111). -/
def Obligations.WriteTurnOffersTheRemainder : Prop :=
  ∀ (s : State) (rest : List Input) (c : Nat) (ws : List WriteAnswer),
    s.cmdIssued = false → s.inputs = .txTurn :: rest → s.txBusy = true → s.txoff < s.txframe.length →
    s.chan.kind = .external → s.chan.writable = true → s.chan.writes = .count c :: ws → c ≤ s.txframe.length - s.txoff →
    (s.txoff + c < s.txframe.length →
      step s = .next { s with inputs := rest, txoff := s.txoff + c, chan := { s.chan with writes := ws, txStream := s.chan.txStream ++ slice s.txframe s.txoff c } }) ∧
    (s.txoff + c = s.txframe.length →
      step s = .next { s with inputs := rest, txoff := s.txoff + c, txBusy := false, txStatus := 1, txErrTag := 0, chan := { s.chan with writes := ws, txStream := s.chan.txStream ++ slice s.txframe s.txoff c } })

/-- A ChWrite that fails, by its answer, or because the channel is closed or has failed before, ends the SEND with
TransportError and latches `broken`; the bytes already accepted stay on the TX stream, and the channel has failed for
good (rules R47, R112, R145, R161; assumption log 25). -/
def Obligations.FailedWriteBreaksTheBus : Prop :=
  ∀ (s : State) (rest : List Input),
    s.cmdIssued = false → s.inputs = .txTurn :: rest → s.txBusy = true → s.txoff < s.txframe.length →
    (∀ ws, s.chan.kind = .external → s.chan.writable = true → s.chan.writes = .fail :: ws →
      step s = .next { s with inputs := rest, broken := true, txBusy := false, txStatus := 6, txErrTag := 0, chan := { s.chan with writes := ws, writeFailed := true } }) ∧
    (s.chan.writable = false →
      step s = .next { s with inputs := rest, broken := true, txBusy := false, txStatus := 6, txErrTag := 0 })

/-- A whole SEND: whatever the sequence of short writes by which the channel accepts the frame, the frame's bytes reach the
TX stream in order, each exactly once, the outcome is Ok, and nothing else is left changed but the engine's working
registers (rules R49, R110, R111). What those registers keep, the free run of the engine, and one turn for each write
are the model's (assumption logs 22, 19 and 23). -/
def Obligations.SendFlushesTheWholeFrame : Prop :=
  ∀ (s : State) (counts : List Nat) (ws : List WriteAnswer),
    s.cmdIssued = true → s.cmd = 5 → s.inputs = [] → s.txBusy = false → s.broken = false →
    s.msgIn.id.toNat ≤ 536870911 → s.msgIn.len.toNat ≤ 8 → tsValid s.msgIn.ts = true →
    s.chan.kind = .external → s.chan.isOpen = true → s.chan.writeFailed = false → s.chan.readFailed = false →
    s.chan.writes = counts.map .count ++ ws →
    counts.sum = 11 + s.msgIn.len.toNat → (∀ n, n < counts.length → (counts.take n).sum < 11 + s.msgIn.len.toNat) →
    ∃ frame : List Byte,
      frame = [0xAA] ++ bytesBe32 (tsQuant s.msgIn.ts) ++ [s.msgIn.len] ++ bytesBe32 s.msgIn.id ++ s.msgIn.data.toList.take s.msgIn.len.toNat ++ [0xBB] ∧
      steps (counts.length + 1) s =
        .next { s with cmdIssued := false, txStatus := 1, txErrTag := 0, txframe := frame, txoff := frame.length, chan := { s.chan with writes := ws, txStream := s.chan.txStream ++ frame } }

/-! ### RECV -/

/-- RECV, engine free and channel not broken: the RX engine is in flight with its deadline not reached and its operand read
(rules R118, R123); otherwise busy is tested before broken (rules R25, R126, R142). That TIMEOUT is latched, that
`exec` stops before the loop, and that the channel's record of a failure is carried over here, are the model's (assumption
logs 17, 23 and 25). -/
def Obligations.RecvStartsTheEngine : Prop :=
  ∀ s : State,
    (s.rxBusy = false → s.broken = false →
      exec .recv s = .next { s with rxBusy := true, expired := false, rxTimeout := s.timeout, chan := { s.chan with readFailed := s.chan.readFailed || s.chan.writeFailed } }) ∧
    (s.rxBusy = true → exec .recv s = .next { s with rxStatus := 7 }) ∧
    (s.rxBusy = false → s.broken = true → exec .recv s = .next { s with rxStatus := 6 })

/-- A turn of the RX engine that finds no frame and has not seen the deadline makes one ChRead and appends its whole answer;
the deadline bit is 1 for Zero, 0 for Infinite, drawn for Finite; `fsm` follows the table of rule R125 (rules R119, R120,
R122). Where the script has run out, a Zero or Finite read ends with what the channel holds and the deadline reached,
which is the model's choice among the answers of rule R119 (assumption log 3). -/
def Obligations.ReadTurnAppendsTheAnswer : Prop :=
  ∀ (s : State) (rest : List Input) (arm : NeedArm) (buf : List Byte) (pos : Nat),
    s.cmdIssued = false → s.inputs = .rxTurn :: rest → s.rxBusy = true → s.expired = false →
    decodeBuffer s.build.earlyDlcReject s.rxbuf s.sp = (.needMore arm, buf, pos) →
    s.chan.kind = .external → s.chan.readable = true →
    (∀ k e rs, s.chan.reads = .bytes k e :: rs → k ≤ s.build.maxRead.val → k ≤ s.chan.rxStream.length →
      step s = .next { s with inputs := rest, rxbuf := buf ++ s.chan.rxStream.take k, sp := pos, fsm := if arm = .frame then .headerBuffered else .syncing, expired := (match s.rxTimeout with | .zero => true | .finite _ => e | .infinite => false), chan := { s.chan with reads := rs, rxStream := s.chan.rxStream.drop k } }) ∧
    (s.chan.reads = [] → s.rxTimeout ≠ .infinite →
      step s = .next { s with inputs := rest, rxbuf := buf ++ s.chan.rxStream.take s.build.maxRead.val, sp := pos, fsm := if arm = .frame then .headerBuffered else .syncing, expired := true, chan := { s.chan with rxStream := s.chan.rxStream.drop s.build.maxRead.val } })

/-- A turn of the RX engine that finds no frame after the deadline ends the RECV with TimedOut, reads nothing, and keeps
every live byte (rules R120, R123, R138). -/
def Obligations.ExpiredTurnTimesOut : Prop :=
  ∀ (s : State) (rest : List Input) (arm : NeedArm) (buf : List Byte) (pos : Nat),
    s.cmdIssued = false → s.inputs = .rxTurn :: rest → s.rxBusy = true → s.expired = true →
    decodeBuffer s.build.earlyDlcReject s.rxbuf s.sp = (.needMore arm, buf, pos) →
    step s = .next { s with inputs := rest, rxbuf := buf, sp := pos, fsm := if arm = .frame then .headerBuffered else .syncing, rxBusy := false, rxStatus := 3 }

/-- A ChRead that fails, by its answer, or because the channel is closed or has failed before, ends the RECV with
TransportError and latches `broken`; buffer, cursor and `fsm` keep what the last DECODE gave them, and the channel has
failed for good (rules R47, R124, R145, R161; assumption log 25). -/
def Obligations.FailedReadBreaksTheBus : Prop :=
  ∀ (s : State) (rest : List Input) (arm : NeedArm) (buf : List Byte) (pos : Nat),
    s.cmdIssued = false → s.inputs = .rxTurn :: rest → s.rxBusy = true → s.expired = false →
    decodeBuffer s.build.earlyDlcReject s.rxbuf s.sp = (.needMore arm, buf, pos) →
    (∀ rs, s.chan.kind = .external → s.chan.readable = true → s.chan.reads = .fail :: rs →
      step s = .next { s with inputs := rest, rxbuf := buf, sp := pos, fsm := if arm = .frame then .headerBuffered else .syncing, broken := true, rxBusy := false, rxStatus := 6, chan := { s.chan with reads := rs, readFailed := true } }) ∧
    (s.chan.readable = false →
      step s = .next { s with inputs := rest, rxbuf := buf, sp := pos, fsm := if arm = .frame then .headerBuffered else .syncing, broken := true, rxBusy := false, rxStatus := 6 })

/-- A rejected candidate is silent: a turn of the RX engine whose first START at or after the cursor DECODE1 rejects is the turn
from one byte past that START (rules R96, R101, R139). -/
def Obligations.RejectionIsSilent : Prop :=
  ∀ (s : State) (rest : List Input) (buf : List Byte) (pos : Nat),
    s.cmdIssued = false → s.inputs = .rxTurn :: rest → s.rxBusy = true →
    decode1 s.build.earlyDlcReject s.rxbuf s.sp = (.corrupt, buf, pos) →
    buf = s.rxbuf ∧ (∃ p, IsFirstStart s.rxbuf s.sp p ∧ pos = p + 1) ∧ step s = step { s with sp := pos }

/-- Partial delivery: a RECV whose one read brings the first `k` bytes of a frame and the deadline times out and keeps them,
and a following RECV that brings the rest delivers the Message (rule R129). The latched TIMEOUT, what `expired` keeps, the
free run and one turn for each read are the model's (assumption logs 17, 22, 19 and 23). -/
def Obligations.FrameInTwoPiecesIsDelivered : Prop :=
  ∀ (s : State) (f : Frame) (k : Nat) (after : List Byte) (e : Bool) (rs : List ReadAnswer),
    f.data.length ≤ 8 → 0 < k → k < 11 + f.data.length →
    s.cmdIssued = true → s.cmd = 6 → s.inputs = [] → s.broken = false → s.rxBusy = false → s.txBusy = false →
    s.chan.kind = .external → s.chan.isOpen = true → s.chan.writeFailed = false → s.chan.readFailed = false → 19 ≤ s.build.maxRead.val →
    (s.timeout.expiry e = true → s.rxbuf = [] → s.sp = 0 →
      s.chan.rxStream = encodeFields f ++ after → s.chan.reads = .bytes k e :: rs →
      steps 3 s =
        .next { s with cmdIssued := false, rxbuf := (encodeFields f).take k, fsm := if k < 11 then .syncing else .headerBuffered, expired := true, rxTimeout := s.timeout, rxStatus := 3, chan := { s.chan with rxStream := (encodeFields f).drop k ++ after, reads := rs } }) ∧
    (s.rxbuf = (encodeFields f).take k → s.sp = 0 →
      s.chan.rxStream = (encodeFields f).drop k ++ after → s.chan.reads = .bytes (11 + f.data.length - k) e :: rs →
      ∃ (out : MsgOut) (x : Bool) (n : Nat),
        steps 3 s =
          .next { s with cmdIssued := false, rxbuf := [], fsm := .idle, expired := x, rxTimeout := s.timeout, rxStatus := 2, rxMsgOut := out, free := n, chan := { s.chan with rxStream := after, reads := rs } } ∧
        out.id = f.id.setWidth 32 ∧ out.len.toNat = f.data.length ∧ out.data.toList.take f.data.length = f.data ∧
        out.tsMs = f.ms ∧ out.ts = tsDequant f.ms ∧ out.ext = true)

/-! ### Reset, close, the channel -/

/-- The reset values rule R33 states. The values of the registers it leaves unspecified are the model's choice (assumption log
6) and are not stated here. -/
def Obligations.ResetValuesOfTheSpec : Prop :=
  State.reset.rxbuf = [] ∧ State.reset.sp = 0 ∧ State.reset.fsm = .idle ∧ State.reset.broken = false ∧
  State.reset.txBusy = false ∧ State.reset.rxBusy = false ∧ State.reset.status = 0 ∧ State.reset.txStatus = 0 ∧
  State.reset.rxStatus = 0 ∧ State.reset.errTag = 0 ∧ State.reset.cmd = 0 ∧ step State.reset = .next State.reset

/-- `rst` from any state: the block's stated reset values, an operation in flight abandoned without outcome, the channel not
touched (rules R33, R160, R161). -/
def Obligations.ResetAbandonsAndKeepsTheChannel : Prop :=
  ∀ (s : State) (rest : List Input), s.cmdIssued = false → s.inputs = .host .rst :: rest →
    ∃ t, step s = .next t ∧
      t.rxbuf = [] ∧ t.sp = 0 ∧ t.fsm = .idle ∧ t.broken = false ∧ t.txBusy = false ∧ t.rxBusy = false ∧
      t.status = 0 ∧ t.txStatus = 0 ∧ t.rxStatus = 0 ∧ t.errTag = 0 ∧ t.cmd = 0 ∧ t.chan = s.chan ∧
      t.build = s.build ∧ t.inputs = rest

/-- The loopback channel: what SEND writes joins its queue, and a read hands over as much of the queue as MAX_READ allows,
without blocking (rule R52). -/
def Obligations.LoopbackReturnsWhatWasWritten : Prop :=
  ∀ (ch : Channel) (bs : List Byte) (max : Nat) (t : Timeout), ch.kind = .loopback → ch.writable = true → ch.readable = true →
    (ch.writes = [] → chWrite ch bs = .accepted bs.length { ch with txStream := ch.txStream ++ bs, rxStream := ch.rxStream ++ bs }) ∧
    (∀ c ws, ch.writes = .count c :: ws → c ≤ bs.length →
      chWrite ch bs = .accepted c { ch with writes := ws, txStream := ch.txStream ++ bs.take c, rxStream := ch.rxStream ++ bs.take c }) ∧
    ∃ e, chRead ch max t = .bytes (ch.rxStream.take (min ch.rxStream.length max)) e { ch with reads := ch.reads.tail, rxStream := ch.rxStream.drop (min ch.rxStream.length max) } ∧
      (t = .zero → e = true) ∧ (t = .infinite → e = false)

/-- The model's own stop (assumption log 4): where the environment's script leaves the contract of rule R45 or R46, a turn
answers a fault and no next state. -/
def Obligations.ChannelBreachStops : Prop :=
  ∀ (s : State) (rest : List Input), s.cmdIssued = false →
    (∀ c ws, s.inputs = .txTurn :: rest → s.chan.writable = true → s.txBusy = true → s.txoff < s.txframe.length →
      s.chan.writes = .count c :: ws → s.txframe.length - s.txoff < c → step s = .fault .channelBreach) ∧
    (∀ k e rs arm buf pos, s.inputs = .rxTurn :: rest → s.rxBusy = true → s.expired = false →
      decodeBuffer s.build.earlyDlcReject s.rxbuf s.sp = (.needMore arm, buf, pos) →
      s.chan.kind = .external → s.chan.readable = true → s.chan.reads = .bytes k e :: rs → s.build.maxRead.val < k ∨ s.chan.rxStream.length < k →
      step s = .fault .channelBreach)

/-- What the host does at the ports: each action writes the register it names; `issue` writes CMD and raises the command;
`close()` closes the channel (rules R26, R47). -/
def Obligations.HostActionsWriteTheirRegister : Prop :=
  ∀ (s : State) (rest : List Input), s.cmdIssued = false →
    (∀ m, s.inputs = .host (.setMsgIn m) :: rest → step s = .next { s with inputs := rest, msgIn := m }) ∧
    (∀ m, s.inputs = .host (.setMsgIn2 m) :: rest → step s = .next { s with inputs := rest, msgIn2 := m }) ∧
    (∀ t, s.inputs = .host (.setTimeout t) :: rest → step s = .next { s with inputs := rest, timeout := t }) ∧
    (∀ d, s.inputs = .host (.setDecIn d) :: rest → step s = .next { s with inputs := rest, decIn := d }) ∧
    (∀ c, s.inputs = .host (.issue c) :: rest → step s = .next { s with inputs := rest, cmd := c, cmdIssued := true }) ∧
    (s.inputs = .host .close :: rest → step s = .next { s with inputs := rest, chan := { s.chan with isOpen := false } })

/-- An engine takes no step outside an operation the host issued (rule R5); a SEND, and a RECV whose TIMEOUT is Infinite,
waits, its operation in flight, while an external channel has not answered (rules R114, R127, R176; assumption log 3). -/
def Obligations.EnginesWaitWhenIdleOrBlocked : Prop :=
  ∀ (s : State) (rest : List Input), s.cmdIssued = false →
    (s.inputs = .txTurn :: rest → s.txBusy = false → step s = .next { s with inputs := rest }) ∧
    (s.inputs = .rxTurn :: rest → s.rxBusy = false → step s = .next { s with inputs := rest }) ∧
    (s.inputs = .txTurn :: rest → s.txBusy = true → s.txoff < s.txframe.length → s.chan.kind = .external →
      s.chan.writable = true → s.chan.writes = [] → step s = .next { s with inputs := rest }) ∧
    (∀ arm buf pos, s.inputs = .rxTurn :: rest → s.rxBusy = true → s.expired = false →
      decodeBuffer s.build.earlyDlcReject s.rxbuf s.sp = (.needMore arm, buf, pos) →
      s.chan.kind = .external → s.chan.readable = true → s.chan.reads = [] → s.rxTimeout = .infinite →
      step s = .next { s with inputs := rest, rxbuf := buf, sp := pos, fsm := if arm = .frame then .headerBuffered else .syncing })

/-! ### The whole machine -/

/-- The invariants of rule R31, and that the tag registers agree with the status registers (rules R27, R74, R140; assumption log
11), hold after reset. That TX_ERR_TAG is 0 then is the model's reading of rule R33 (assumption log 21). -/
def Obligations.InvariantHoldsAtReset : Prop :=
  State.reset.Inv

/-- The invariants of rule R31, that the TX engine's frame is a frame (rule R91 E4), that the tag registers agree with the
status registers (rules R27, R74, R140), and that a loopback channel's RX stream is its TX stream (rule R52) are kept by
every step. That a tag outlives a refusal, that TX_ERR_TAG is reset to 0, and what channel recovery gives, are the model's
(assumption logs 11, 21 and 20). -/
def Obligations.EveryStepKeepsTheInvariant : Prop :=
  ∀ s t : State, s.Inv → step s = .next t → t.Inv

/-- `broken`, once 1, stays 1 until reset (rules R25, R31 I5). -/
def Obligations.BrokenIsSticky : Prop :=
  ∀ s t : State, s.broken = true → step s = .next t → ¬ s.resetNext → t.broken = true

/-- No byte of the buffer is ever overwritten. A reset empties it; without a RECV in flight a step leaves it and the cursor
alone. Otherwise a step appends what an RX turn has read, a beginning of the RX stream, and drops nothing; or finds no
START but those of rejected candidates, drops everything, and appends it; or drops the bytes up to the end of a frame that
it delivers (rules R22, R44, R96, R121). -/
def Obligations.BufferOnlyDropsAndAppends : Prop :=
  ∀ s t : State, step s = .next t →
    (s.resetNext → t.rxbuf = [] ∧ t.sp = 0) ∧
    (¬ s.resetNext →
      (s.rxBusy = false → t.rxbuf = s.rxbuf ∧ t.sp = s.sp ∧ t.fsm = s.fsm) ∧
      ∃ bs, bs <+: s.chan.rxStream ∧
        (bs ≠ [] → s.rxBusy = true ∧ s.expired = false ∧ s.chan.rxStream = bs ++ t.chan.rxStream) ∧
        (t.rxbuf = s.rxbuf ++ bs ∧ s.sp ≤ t.sp ∨
          (∀ i, s.sp ≤ i → s.rxbuf[i]? = some 0xAA → RejectedAt s.build.earlyDlcReject s.rxbuf i) ∧ t.rxbuf = bs ∧ t.sp = 0 ∨
          bs = [] ∧ t.sp = 0 ∧ t.rxStatus = 2 ∧
            ∃ p f after, s.sp ≤ p ∧ decodeFields (s.rxbuf.drop p) = .ok (f, after) ∧
              t.rxbuf = s.rxbuf.drop (p + 11 + f.data.length)))

/-- The RX stream is taken in order, and every byte taken is appended at the end of the buffer: none is lost (rules R46, R50,
R146). The RX stream of a loopback channel grows by just what its TX stream grows by, and no other one grows (rule
R52). -/
def Obligations.EveryByteReadIsAppended : Prop :=
  ∀ s t : State, step s = .next t → ¬ s.resetNext →
    ∃ k n bs, k ≤ s.chan.rxStream.length ∧ t.chan.txStream = s.chan.txStream ++ bs ∧
      t.chan.rxStream = s.chan.rxStream.drop k ++ (if s.chan.kind = .loopback then bs else []) ∧
      t.rxbuf = s.rxbuf.drop n ++ s.chan.rxStream.take k

/-- Bytes on the TX stream are never recalled: a step appends to it a beginning of what the SEND in flight has left, and
nothing while none is in flight (rules R45, R49, R112). -/
def Obligations.TransmitStreamOnlyGrows : Prop :=
  ∀ s t : State, step s = .next t → ¬ s.resetNext →
    ∃ bs, t.chan.txStream = s.chan.txStream ++ bs ∧ bs <+: s.txframe.drop s.txoff ∧ (s.txBusy = false → bs = [])

/-- Nothing but the end of an operation writes the result registers, and each is written by its own operations only: STATUS
and ERR_TAG by an accepted command other than NOP, SEND and RECV; MSG_OUT by MSG.NEW and DECODE with outcome Message;
FRAME_OUT by ENCODE and EQ_OUT by MSG.EQ with outcome Ok; DECODE's port by DECODE; the TX registers by a SEND that starts
nothing or that ends; the RX registers by a RECV that starts nothing or that ends, RX_MSG_OUT only with outcome Message
(rules R27, R73, R102; DECODE's port is assumption log 10). -/
def Obligations.ResultsChangeOnlyWithTheirOutcome : Prop :=
  ∀ s t : State, step s = .next t → ¬ s.resetNext →
    (t.status ≠ s.status ∨ t.errTag ≠ s.errTag → s.cmdIssued = true ∧ s.cmd ≠ 0 ∧ s.cmd ≠ 5 ∧ s.cmd ≠ 6) ∧
    (t.msgOut ≠ s.msgOut → s.cmdIssued = true ∧ (s.cmd = 1 ∨ s.cmd = 4) ∧ t.status = 2) ∧
    (t.frameOut ≠ s.frameOut → s.cmdIssued = true ∧ s.cmd = 3 ∧ t.status = 1) ∧
    (t.eqOut ≠ s.eqOut → s.cmdIssued = true ∧ s.cmd = 2 ∧ t.status = 1) ∧
    (t.decOut ≠ s.decOut → s.cmdIssued = true ∧ s.cmd = 4 ∧
      (t.status = 2 ∨ t.status = 4 ∧ t.decOut.consumed = s.decOut.consumed ∧ t.decOut.frameEnd = s.decOut.frameEnd)) ∧
    (t.txStatus ≠ s.txStatus ∨ t.txErrTag ≠ s.txErrTag →
      s.cmdIssued = true ∧ s.cmd = 5 ∧ t.txBusy = s.txBusy ∨ s.cmdIssued = false ∧ s.txBusy = true ∧ t.txBusy = false) ∧
    (t.rxStatus ≠ s.rxStatus →
      s.cmdIssued = true ∧ s.cmd = 6 ∧ t.rxBusy = s.rxBusy ∨ s.cmdIssued = false ∧ s.rxBusy = true ∧ t.rxBusy = false) ∧
    (t.rxMsgOut ≠ s.rxMsgOut → s.cmdIssued = false ∧ s.rxBusy = true ∧ t.rxBusy = false ∧ t.rxStatus = 2)

/-- The engines write disjoint state but for `broken`: a TX turn leaves everything of the receiver as it was, an RX turn
everything of the transmitter (rule R51). -/
def Obligations.EnginesWriteDisjointState : Prop :=
  ∀ (s t : State) (rest : List Input), s.cmdIssued = false → s.chan.kind = .external → step s = .next t →
    (s.inputs = .txTurn :: rest →
      t = { s with inputs := rest, txoff := t.txoff, txBusy := t.txBusy, txStatus := t.txStatus, txErrTag := t.txErrTag, broken := t.broken, chan := { s.chan with txStream := t.chan.txStream, writes := t.chan.writes, writeFailed := t.chan.writeFailed } }) ∧
    (s.inputs = .rxTurn :: rest →
      t = { s with inputs := rest, rxbuf := t.rxbuf, sp := t.sp, fsm := t.fsm, rxBusy := t.rxBusy, rxStatus := t.rxStatus, rxMsgOut := t.rxMsgOut, expired := t.expired, broken := t.broken, free := t.free, chan := { s.chan with rxStream := t.chan.rxStream, reads := t.chan.reads, readFailed := t.chan.readFailed } })

/-- The engines' turns commute: on an external channel either order of a TX and an RX turn gives the same state (rules R51,
R152). -/
def Obligations.EngineTurnsCommute : Prop :=
  ∀ (s t : State) (rest : List Input), s.cmdIssued = false → s.chan.kind = .external →
    (steps 2 { s with inputs := .txTurn :: .rxTurn :: rest } = .next t ↔
      steps 2 { s with inputs := .rxTurn :: .txTurn :: rest } = .next t)

/-- Dead bytes are invisible: discarding them before a step changes nothing in the state after it but dead bytes (rule
R32). -/
def Obligations.DeadBytesAreInvisible : Prop :=
  ∀ s : State, Result.sameLive (step s) (step s.compact)

/-! ### Recovery, the loopback channel, and the end of a RECV -/

/-- Recovery after a TransportError: the block's stated reset values, whatever was in flight abandoned, and the new channel,
open, with nothing on its TX stream and, if it is a loopback, an empty queue (rules R33, R52, R163). That it is one
action is the model's choice (assumption log 20). -/
def Obligations.RecreateResetsAndInstallsTheChannel : Prop :=
  ∀ (s : State) (c : NewChannel) (rest : List Input), s.cmdIssued = false → s.inputs = .host (.recreate c) :: rest →
    ∃ t, step s = .next t ∧
      t.rxbuf = [] ∧ t.sp = 0 ∧ t.fsm = .idle ∧ t.broken = false ∧ t.txBusy = false ∧ t.rxBusy = false ∧
      t.status = 0 ∧ t.txStatus = 0 ∧ t.rxStatus = 0 ∧ t.errTag = 0 ∧ t.cmd = 0 ∧ t.build = s.build ∧ t.inputs = rest ∧
      (∀ rx ws rs, c = .external rx ws rs →
        t.chan = { kind := .external, isOpen := true, writeFailed := false, readFailed := false, txStream := [], rxStream := rx, writes := ws, reads := rs }) ∧
      (∀ ws rs, c = .loopback ws rs →
        t.chan = { kind := .loopback, isOpen := true, writeFailed := false, readFailed := false, txStream := [], rxStream := [], writes := ws, reads := rs })

/-- A turn of each engine on an open loopback channel: a write puts the bytes the test lets through on the TX stream and into
the queue, the full length unless its script says less; a read hands over as much of the queue as MAX_READ allows and
never blocks (rules R52, R111, R119, R120). What a script's end and its entry `fail` stand for is the model's choice
(assumption log 18). -/
def Obligations.LoopbackTurnsAnswerAtOnce : Prop :=
  ∀ (s : State) (rest : List Input), s.cmdIssued = false → s.chan.kind = .loopback → s.chan.isOpen = true →
    (s.inputs = .txTurn :: rest → s.chan.writeFailed = false → s.txBusy = true → s.txoff < s.txframe.length →
      (∀ c ws, s.chan.writes = .count c :: ws → s.txoff + c < s.txframe.length →
        step s = .next { s with inputs := rest, txoff := s.txoff + c, chan := { s.chan with writes := ws, txStream := s.chan.txStream ++ slice s.txframe s.txoff c, rxStream := s.chan.rxStream ++ slice s.txframe s.txoff c } }) ∧
      (s.chan.writes = [] ∨ s.chan.writes.head? = some .fail ∨ s.chan.writes.head? = some (.count (s.txframe.length - s.txoff)) →
        step s = .next { s with inputs := rest, txoff := s.txframe.length, txBusy := false, txStatus := 1, txErrTag := 0, chan := { s.chan with writes := s.chan.writes.tail, txStream := s.chan.txStream ++ s.txframe.drop s.txoff, rxStream := s.chan.rxStream ++ s.txframe.drop s.txoff } })) ∧
    (∀ arm buf pos, s.inputs = .rxTurn :: rest → s.chan.readFailed = false → s.rxBusy = true → s.expired = false →
      decodeBuffer s.build.earlyDlcReject s.rxbuf s.sp = (.needMore arm, buf, pos) →
      step s = .next { s with inputs := rest, rxbuf := buf ++ s.chan.rxStream.take s.build.maxRead.val, sp := pos, fsm := if arm = .frame then .headerBuffered else .syncing, expired := (match s.rxTimeout with | .zero => true | .finite _ => (match s.chan.reads with | .bytes _ e :: _ => e | _ => true) | .infinite => false), chan := { s.chan with reads := s.chan.reads.tail, rxStream := s.chan.rxStream.drop s.build.maxRead.val } })

/-- A RECV that is not Infinite ends: a Zero one within two turns and at most one read, of at most
MAX_READ bytes, a Finite one within two turns more
than its channel's script has answers, unless that script leaves the channel contract (rules R119, R123, R127, R128). That
a script is finite, and what follows it, are the model's form of rule R119 (assumption logs 1, 3 and 5). -/
def Obligations.BoundedReceiveEnds : Prop :=
  ∀ (s : State) (rest : List Input), s.cmdIssued = false → s.rxBusy = true →
    (s.rxTimeout = .zero →
      steps 2 { s with inputs := .rxTurn :: .rxTurn :: rest } ≠ .fault .channelBreach →
      ∃ t, steps 2 { s with inputs := .rxTurn :: .rxTurn :: rest } = .next t ∧ t.rxBusy = false ∧ t.inputs = rest ∧
        (t.chan.reads = s.chan.reads ∨ t.chan.reads = s.chan.reads.tail) ∧
        ∃ k, k ≤ s.build.maxRead.val ∧ t.chan.rxStream = s.chan.rxStream.drop k) ∧
    (s.rxTimeout ≠ .infinite →
      steps (s.chan.reads.length + 2) { s with inputs := List.replicate (s.chan.reads.length + 2) .rxTurn ++ rest } ≠
        .fault .channelBreach →
      ∃ t, steps (s.chan.reads.length + 2) { s with inputs := List.replicate (s.chan.reads.length + 2) .rxTurn ++ rest } =
          .next t ∧ t.rxBusy = false ∧ t.inputs = rest)

/-- Reset does not mend the channel: on a channel that has failed in either direction, or is closed, the first ChRead and the
first ChWrite after a reset fail, end their operation with TransportError, and set `broken` again (rules R47, R161; that a
failure is recorded by direction is assumption log 25, the schedule log 1, the handshake log 2). -/
def Obligations.ResetDoesNotMendTheChannel : Prop :=
  ∀ (s : State) (rest : List Input), s.cmdIssued = false →
    s.chan.isOpen = false ∨ s.chan.writeFailed = true ∨ s.chan.readFailed = true →
    (∀ timeout, s.inputs = .host .rst :: .host (.setTimeout timeout) :: .host (.issue 6) :: .rxTurn :: rest →
      ∃ t, steps 5 s = .next t ∧ t.broken = true ∧ t.rxStatus = 6 ∧ t.rxBusy = false ∧ t.rxbuf = [] ∧ t.inputs = rest ∧
        t.chan.rxStream = s.chan.rxStream) ∧
    (∀ m : MsgIn, m.id.toNat ≤ 536870911 → m.len.toNat ≤ 8 → tsValid m.ts = true →
      s.inputs = .host .rst :: .host (.setMsgIn m) :: .host (.issue 5) :: .txTurn :: rest →
      ∃ t, steps 5 s = .next t ∧ t.broken = true ∧ t.txStatus = 6 ∧ t.txBusy = false ∧ t.inputs = rest ∧
        t.chan.txStream = s.chan.txStream)
end

