-- ==== Sys2Proof/Laws/Encoding.lean ====
section
/-! SUPPORT. What the field assembly, the decoder and the encoder of frames do, said once. -/

namespace Sys2Proof

theorem bytesBe32_length (v : Word32) : (bytesBe32 v).length = 4 := rfl

/-- `be32` undoes `bytes_be32` (rule R10). -/
theorem be32_bytesBe32 (v : Word32) :
    be32 (v.extractLsb' 24 8) (v.extractLsb' 16 8) (v.extractLsb' 8 8) (v.extractLsb' 0 8) = v := by
  unfold be32
  ext i hi
  simp only [BitVec.getElem_append, BitVec.getElem_extractLsb']
  split
  · simp [BitVec.getElem_eq_testBit_toNat, BitVec.getLsbD]
  · split
    · simp [BitVec.getElem_eq_testBit_toNat, BitVec.getLsbD]; congr 1; omega
    · split
      · simp [BitVec.getElem_eq_testBit_toNat, BitVec.getLsbD]; congr 1; omega
      · simp [BitVec.getElem_eq_testBit_toNat, BitVec.getLsbD]; congr 1; omega

/-- `bytes_be32` undoes `be32` (rule R10). -/
theorem bytesBe32_be32 (b0 b1 b2 b3 : Byte) : bytesBe32 (be32 b0 b1 b2 b3) = [b0, b1, b2, b3] := by
  simp only [bytesBe32, be32, List.cons.injEq, and_true]
  refine ⟨?_, ?_, ?_, ?_⟩ <;> ext i hi <;>
    simp only [BitVec.getElem_extractLsb', BitVec.getLsbD_append] <;>
    (repeat' split) <;> first | omega | (rw [← BitVec.getLsbD_eq_getElem]; congr 1; omega)

/-- Bits 31:29 of the id field are zero exactly when its first byte is at most `0x1F` (rule R106). -/
theorem reservedIdBits_be32 (b0 b1 b2 b3 : Byte) : reservedIdBits (be32 b0 b1 b2 b3) = 0 ↔ b0.toNat ≤ 0x1F := by
  have h : reservedIdBits (be32 b0 b1 b2 b3) = b0.extractLsb' 5 3 := by
    ext i hi
    simp only [reservedIdBits, be32, BitVec.getElem_extractLsb', BitVec.getLsbD_append]
    (repeat' split) <;> first | omega | (congr 1; omega)
  rw [h]
  have : ∀ b : Byte, b.extractLsb' 5 3 = 0 ↔ b.toNat ≤ 0x1F := by decide
  exact this b0

/-- The identifier of a field with zero reserved bits is the whole field (rule R106). -/
theorem setWidth_id_of_reserved {w : Word32} (h : reservedIdBits w = 0) : (w.setWidth 29).setWidth 32 = w := by
  have h' : (reservedIdBits w).toNat = 0 := by rw [h]; rfl
  apply BitVec.eq_of_toNat_eq
  simp only [reservedIdBits, BitVec.extractLsb'_toNat, BitVec.toNat_setWidth,
    Nat.shiftRight_eq_div_pow] at h' ⊢
  have := w.isLt
  omega

/-- An identifier in its 32-bit field has zero reserved bits (rule R65). -/
theorem reservedIdBits_setWidth (i : BitVec 29) : reservedIdBits (i.setWidth 32) = 0 := by
  apply BitVec.eq_of_toNat_eq
  have := i.isLt
  change _ = 0
  simp only [reservedIdBits, BitVec.extractLsb'_toNat, BitVec.toNat_setWidth,
    Nat.shiftRight_eq_div_pow]
  omega

theorem encodeFields_eq (f : Frame) :
    encodeFields f = Config.startByte :: (bytesBe32 f.ms ++ BitVec.ofNat 8 f.data.length ::
      (bytesBe32 (f.id.setWidth 32) ++ (f.data ++ [Config.endByte]))) := by
  simp [encodeFields]

/-- A frame has `11 + dlc` bytes (rule R61). -/
theorem encodeFields_length (f : Frame) : (encodeFields f).length = 11 + f.data.length := by
  simp [encodeFields_eq, bytesBe32_length]; omega

/-- What an accepted candidate is (rules R99, R100): the checks hold, and `rest` is the payload, END and the bytes after. -/
theorem checkCandidate_ok_iff {ms : Word32} {n : Byte} {w : Word32} {rest tail : List Byte} {f : Frame} :
    checkCandidate ms n w rest = .ok (f, tail) ↔
      n.toNat ≤ 8 ∧ reservedIdBits w = 0 ∧ rest = f.data ++ Config.endByte :: tail ∧ f.data.length = n.toNat ∧
        f.ms = ms ∧ f.id = w.setWidth 29 := by
  have htd := List.take_append_drop n.toNat rest
  unfold checkCandidate
  cases hd : rest.drop n.toNat with
  | nil =>
    simp only [reduceCtorEq, false_iff, not_and]
    intro _ _ hr hl
    have : n.toNat < rest.length := by rw [hr]; simp [hl]
    have := List.drop_eq_nil_iff.mp hd
    omega
  | cons e t =>
    rw [hd] at htd
    have hlen : n.toNat < rest.length := by
      by_contra h
      rw [List.drop_eq_nil_of_le (by omega)] at hd
      cases hd
    have htake : (rest.take n.toNat).length = n.toNat := by simp; omega
    have hmax : Config.maxDlc = 8 := rfl
    simp only [hmax]
    constructor
    · intro h
      split at h
      · cases h
      · split at h
        · cases h
        · split at h
          · cases h
          · rename_i h1 h2 h3
            cases h
            refine ⟨by omega, by simpa using h2, ?_, htake, rfl, rfl⟩
            simp only [ne_eq, Decidable.not_not] at h3
            rw [← h3, htd]
    · rintro ⟨h1, h2, h3, h4, h5, h6⟩
      have hcons : e :: t = Config.endByte :: tail := by
        rw [← hd, h3, ← h4, List.drop_left]
      have hdata : rest.take n.toNat = f.data := by rw [h3, ← h4, List.take_left]
      obtain ⟨rfl, rfl⟩ := List.cons.inj hcons
      rw [if_neg (by omega), if_neg (by simpa using h2), if_neg (by simp), hdata]
      cases f
      simp_all

/-- What a frame read from the head of a byte sequence is (rules R60 to R70): the bytes offset by offset. -/
theorem decodeFields_ok {bs rest : List Byte} {f : Frame} (h : decodeFields bs = .ok (f, rest)) :
    ∃ t0 t1 t2 t3 n i0 i1 i2 i3 : Byte,
      bs = Config.startByte :: t0 :: t1 :: t2 :: t3 :: n :: i0 :: i1 :: i2 :: i3 :: (f.data ++ Config.endByte :: rest) ∧
      n.toNat ≤ 8 ∧ f.data.length = n.toNat ∧ reservedIdBits (be32 i0 i1 i2 i3) = 0 ∧
      f.ms = be32 t0 t1 t2 t3 ∧ f.id = (be32 i0 i1 i2 i3).setWidth 29 := by
  unfold decodeFields at h
  split at h
  · cases h
  · rename_i s bs
    split at h
    · cases h
    · rename_i hs
      split at h
      · rename_i t0 t1 t2 t3 n i0 i1 i2 i3 x rest'
        obtain ⟨h1, h2, h3, h4, h5, h6⟩ := checkCandidate_ok_iff.mp h
        refine ⟨t0, t1, t2, t3, n, i0, i1, i2, i3, ?_, h1, h4, h2, h5, h6⟩
        rw [h3, not_not.mp hs]
      · cases h

/-- Bytes of that shape are read as the frame: the converse of `decodeFields_ok`. -/
theorem decodeFields_shape {t0 t1 t2 t3 n i0 i1 i2 i3 : Byte} {f : Frame} (hn : n.toNat ≤ 8) (hl : f.data.length = n.toNat)
    (hr : reservedIdBits (be32 i0 i1 i2 i3) = 0) (hm : f.ms = be32 t0 t1 t2 t3)
    (hi : f.id = (be32 i0 i1 i2 i3).setWidth 29) (rest : List Byte) :
    decodeFields (Config.startByte :: t0 :: t1 :: t2 :: t3 :: n :: i0 :: i1 :: i2 :: i3 ::
      (f.data ++ Config.endByte :: rest)) = .ok (f, rest) := by
  obtain ⟨x, xs, hx⟩ : ∃ x xs, f.data ++ Config.endByte :: rest = x :: xs := by cases f.data <;> simp
  simp only [decodeFields, ne_eq, not_true_eq_false, ↓reduceIte, hx]
  rw [checkCandidate_ok_iff]
  exact ⟨hn, hr, hx.symm, hl, hm, hi⟩

/-- A frame form is well-formed when its payload has at most 8 bytes (rule R66). -/
theorem Frame.instr_wellFormed (f : Frame) (h : f.data.length ≤ 8) : f.instr.WellFormed := by
  have hl : f.data.length = 0 ∨ f.data.length = 1 ∨ f.data.length = 2 ∨ f.data.length = 3 ∨ f.data.length = 4 ∨
      f.data.length = 5 ∨ f.data.length = 6 ∨ f.data.length = 7 ∨ f.data.length = 8 := by omega
  rcases hl with hl | hl | hl | hl | hl | hl | hl | hl | hl <;>
    simp [Frame.instr, Instr.WellFormed, Instr.wf, Frame.wf, hl]

/-- The checks on the bytes an encoded frame begins with. -/
theorem decodeFields_encodeFields_append (f : Frame) (rest : List Byte) (h : f.data.length ≤ 8) :
    decodeFields (encodeFields f ++ rest) = .ok (f, rest) := by
  have hn : (BitVec.ofNat 8 f.data.length).toNat = f.data.length := by
    simp only [BitVec.toNat_ofNat]; omega
  obtain ⟨x, xs, hx⟩ : ∃ x xs, f.data ++ Config.endByte :: rest = x :: xs := by
    cases f.data <;> simp
  rw [encodeFields_eq]
  simp only [decodeFields, bytesBe32, List.cons_append, List.nil_append, List.append_assoc, ne_eq, not_true_eq_false,
    ↓reduceIte, hx, be32_bytesBe32]
  rw [checkCandidate_ok_iff, hn]
  refine ⟨h, reservedIdBits_setWidth _, hx.symm, rfl, rfl, ?_⟩
  apply BitVec.eq_of_toNat_eq
  have := f.id.isLt
  simp only [BitVec.toNat_setWidth]
  omega

end Sys2Proof
end

