-- ==== Sys2Proof/Laws/Decoder.lean ====
section
/-! SUPPORT. What the scan, DECODE1 and DECODE can answer, said once (rules R95 to R103). -/

namespace Sys2Proof.Machine

/-- The scan finds the least START at or after the cursor (rule R96). -/
theorem findStart_eq_some_iff {buf : List Byte} {pos p : Nat} : findStart buf pos = some p ↔ IsFirstStart buf pos p := by
  unfold findStart IsFirstStart
  simp only [Option.map_eq_some_iff, List.findIdx?_eq_some_iff_getElem, List.getElem_drop, beq_iff_eq,
    List.length_drop]
  constructor
  · rintro ⟨k, ⟨hk, hs, hn⟩, rfl⟩
    refine ⟨by omega, ?_, ?_⟩
    · rw [List.getElem?_eq_getElem (by omega), hs]
    · intro i hi hip hc
      obtain ⟨hlt, he⟩ := List.getElem?_eq_some_iff.mp hc
      exact hn (i - pos) (by omega) (by simpa [show pos + (i - pos) = i by omega] using he)
  · rintro ⟨hp, hs, hn⟩
    obtain ⟨hlt, he⟩ := List.getElem?_eq_some_iff.mp hs
    refine ⟨p - pos, ⟨by omega, by simpa [show pos + (p - pos) = p by omega] using he, ?_⟩, by omega⟩
    intro j hj hc
    exact hn (pos + j) (by omega) (by omega) (List.getElem?_eq_some_iff.mpr ⟨by omega, hc⟩)

/-- The scan finds nothing exactly when there is no START at or after the cursor (rule R96). -/
theorem findStart_eq_none_iff {buf : List Byte} {pos : Nat} :
    findStart buf pos = none ↔ ∀ i, pos ≤ i → buf[i]? ≠ some Config.startByte := by
  unfold findStart
  simp only [Option.map_eq_none_iff, List.findIdx?_eq_none_iff, beq_eq_false_iff_ne, ne_eq]
  constructor
  · intro h i hi hc
    apply h Config.startByte _ rfl
    refine List.mem_of_getElem? (i := i - pos) ?_
    rw [List.getElem?_drop, show pos + (i - pos) = i by omega, hc]
  · intro h x hx hc
    obtain ⟨i, hi⟩ := List.getElem?_of_mem hx
    rw [List.getElem?_drop] at hi
    exact h (pos + i) (by omega) (by rw [hi, hc])

theorem IsFirstStart.lt {buf : List Byte} {pos p : Nat} (h : IsFirstStart buf pos p) : p < buf.length :=
  (List.getElem?_eq_some_iff.mp h.2.1).1

/-- The least START is unique. -/
theorem IsFirstStart.unique {buf : List Byte} {pos p q : Nat} (hp : IsFirstStart buf pos p) (hq : IsFirstStart buf pos q) :
    p = q := by
  rcases Nat.lt_trichotomy p q with h | h | h
  · exact absurd hp.2.1 (hq.2.2 p hp.1 h)
  · exact h
  · exact absurd hq.2.1 (hp.2.2 q hq.1 h)

/-- Everything DECODE1 can answer (rule R95). -/
inductive Decode1Answer (early : Bool) (buf : List Byte) (pos : Nat) : Decode1Outcome × List Byte × Nat → Prop
  | noStart (h : ∀ i, pos ≤ i → buf[i]? ≠ some Config.startByte) :
      Decode1Answer early buf pos (.needMore .noStart, [], 0)
  | header (p : Nat) (h : IsFirstStart buf pos p) (ha : buf.length - p < 11) :
      Decode1Answer early buf pos (.needMore .header, buf, p)
  | frame (p : Nat) (h : IsFirstStart buf pos p) (ha : 11 ≤ buf.length - p)
      (hn : buf.length - p < 11 + (buf.getD (p + 5) 0).toNat)
      (he : early = true → (buf.getD (p + 5) 0).toNat ≤ 8) : Decode1Answer early buf pos (.needMore .frame, buf, p)
  | accept (p : Nat) (h : IsFirstStart buf pos p) (f : Frame) (rest : List Byte)
      (hd : decodeFields (buf.drop p) = .ok (f, rest)) :
      Decode1Answer early buf pos (.frame f (11 + f.data.length) (p + 11 + f.data.length), buf, p)
  | reject (p : Nat) (h : IsFirstStart buf pos p) (hr : RejectedAt early buf p) :
      Decode1Answer early buf pos (.corrupt, buf, p + 1)

theorem decode1_answer (early : Bool) (buf : List Byte) (pos : Nat) :
    Decode1Answer early buf pos (decode1 early buf pos) := by
  unfold decode1
  cases hf : findStart buf pos with
  | none => exact .noStart (findStart_eq_none_iff.mp hf)
  | some p =>
    have hp := findStart_eq_some_iff.mp hf
    have hlt := hp.lt
    have h11 : Config.fixedLen = 11 := rfl
    have h8 : Config.maxDlc = 8 := rfl
    simp only [decodeCandidate, verdict, h11, h8]
    split
    · exact .header p hp ‹_›
    · split
      · split
        · rename_i h1 h2 h3
          exact .reject p hp ⟨by omega, .inl ⟨h3.1, by omega⟩⟩
        · rename_i h1 h2 h3
          exact .frame p hp (by omega) h2 (fun he => by by_contra hc; exact h3 ⟨he, by omega⟩)
      · rename_i h1 h2
        split
        · rename_i f rest hd
          exact .accept p hp f rest hd
        · rename_i hd
          exact .reject p hp ⟨by omega, .inr ⟨by omega, by simp [hd]⟩⟩

/-- A START whose candidate is rejected is answered Corrupt (rule R101). -/
theorem decode1_of_rejected {early : Bool} {buf : List Byte} {pos p : Nat} (h : IsFirstStart buf pos p)
    (hr : RejectedAt early buf p) : decode1 early buf pos = (.corrupt, buf, p + 1) := by
  have h11 : Config.fixedLen = 11 := rfl
  have h8 : Config.maxDlc = 8 := rfl
  obtain ⟨ha, hr⟩ := hr
  simp only [h11, h8] at ha hr
  simp only [decode1, findStart_eq_some_iff.mpr h, decodeCandidate, verdict, h11, h8]
  rw [if_neg (by omega)]
  split
  · rename_i hn
    rcases hr with ⟨he, hd⟩ | ⟨hc, -⟩
    · rw [if_pos ⟨he, hd⟩]
    · omega
  · rename_i hn
    split
    · rename_i f rest hd
      rcases hr with ⟨-, hdlc⟩ | ⟨-, hinv⟩
      · exfalso
        obtain ⟨t0, t1, t2, t3, n, i0, i1, i2, i3, hbs, h1, -⟩ := decodeFields_ok hd
        have : buf.getD (p + 5) 0 = n := by
          have := congrArg (fun l => l[5]?) hbs
          simp only [List.getElem?_drop] at this
          simp [List.getD_eq_getElem?_getD, this]
        rw [this] at hdlc
        omega
      · exact absurd hd (hinv f rest)
    · rfl

/-- From `pos` to `q` by rejected candidates alone (rule R101). -/
inductive Rejects (early : Bool) (buf : List Byte) : Nat → Nat → Prop
  | here (pos : Nat) : Rejects early buf pos pos
  | past (pos p q : Nat) (h : IsFirstStart buf pos p) (hr : RejectedAt early buf p) (hq : Rejects early buf (p + 1) q) :
      Rejects early buf pos q

theorem Rejects.le {early : Bool} {buf : List Byte} {pos q : Nat} (h : Rejects early buf pos q) : pos ≤ q := by
  induction h with
  | here => exact Nat.le_refl _
  | past pos p q h _ _ ih => have := h.1; omega

/-- The fuel of the loop does not matter once there is an attempt for every byte at or after the cursor (rule R102). -/
theorem decodeLoop_fuel (early : Bool) (buf : List Byte) :
    ∀ (n m pos : Nat), buf.length - pos < n → buf.length - pos < m →
      decodeLoop early n buf pos = decodeLoop early m buf pos
  | 0, _, _, hn, _ => absurd hn (Nat.not_lt_zero _)
  | _ + 1, 0, _, _, hm => absurd hm (Nat.not_lt_zero _)
  | n + 1, m + 1, pos, hn, hm => by
    have ha := decode1_answer early buf pos
    simp only [decodeLoop]
    generalize decode1 early buf pos = r at ha
    cases ha with
    | reject p h hr =>
      have := h.lt
      have := h.1
      exact decodeLoop_fuel early buf n m (p + 1) (by omega) (by omega)
    | _ => rfl

/-- DECODE from a START that is rejected is DECODE from one byte past it (rules R101, R102). -/
theorem decodeBuffer_of_rejected {early : Bool} {buf : List Byte} {pos p : Nat} (h : IsFirstStart buf pos p)
    (hr : RejectedAt early buf p) : decodeBuffer early buf pos = decodeBuffer early buf (p + 1) := by
  have := h.lt
  have := h.1
  conv => lhs; unfold decodeBuffer
  rw [decodeLoop, decode1_of_rejected h hr]
  exact decodeLoop_fuel early buf _ _ _ (by omega) (by omega)

theorem decodeBuffer_of_rejects {early : Bool} {buf : List Byte} {pos q : Nat} (h : Rejects early buf pos q) :
    decodeBuffer early buf pos = decodeBuffer early buf q := by
  induction h with
  | here => rfl
  | past pos p q h hr _ ih => rw [decodeBuffer_of_rejected h hr, ih]

/-- Everything DECODE can answer (rule R102): after some rejections, one of DECODE1's other arms. -/
inductive DecodeAnswer (early : Bool) (buf : List Byte) (pos : Nat) : DecodeOutcome × List Byte × Nat → Prop
  | noStart (q : Nat) (hq : Rejects early buf pos q) (h : ∀ i, q ≤ i → buf[i]? ≠ some Config.startByte) :
      DecodeAnswer early buf pos (.needMore .noStart, [], 0)
  | header (q p : Nat) (hq : Rejects early buf pos q) (h : IsFirstStart buf q p) (ha : buf.length - p < 11) :
      DecodeAnswer early buf pos (.needMore .header, buf, p)
  | frame (q p : Nat) (hq : Rejects early buf pos q) (h : IsFirstStart buf q p) (ha : 11 ≤ buf.length - p)
      (hn : buf.length - p < 11 + (buf.getD (p + 5) 0).toNat)
      (he : early = true → (buf.getD (p + 5) 0).toNat ≤ 8) : DecodeAnswer early buf pos (.needMore .frame, buf, p)
  | accept (q p : Nat) (hq : Rejects early buf pos q) (h : IsFirstStart buf q p) (f : Frame) (rest : List Byte)
      (hd : decodeFields (buf.drop p) = .ok (f, rest)) :
      DecodeAnswer early buf pos (.frame f (11 + f.data.length) (p + 11 + f.data.length), buf, p)

theorem decodeLoop_answer (early : Bool) (buf : List Byte) :
    ∀ (n pos : Nat), buf.length - pos < n → DecodeAnswer early buf pos (decodeLoop early n buf pos)
  | 0, _, hn => absurd hn (Nat.not_lt_zero _)
  | n + 1, pos, hn => by
    have ha := decode1_answer early buf pos
    simp only [decodeLoop]
    generalize decode1 early buf pos = r at ha
    cases ha with
    | noStart h => exact .noStart pos (.here pos) h
    | header p h ha => exact .header pos p (.here pos) h ha
    | frame p h ha hn he => exact .frame pos p (.here pos) h ha hn he
    | accept p h f rest hd => exact .accept pos p (.here pos) h f rest hd
    | reject p h hr =>
      have := h.lt
      have := h.1
      have ih := decodeLoop_answer early buf n (p + 1) (by omega)
      show DecodeAnswer early buf pos (decodeLoop early n buf (p + 1))
      generalize decodeLoop early n buf (p + 1) = r at ih
      cases ih with
      | noStart q hq h' => exact .noStart q (.past _ _ _ h hr hq) h'
      | header q p' hq h' ha => exact .header q p' (.past _ _ _ h hr hq) h' ha
      | frame q p' hq h' ha hn he => exact .frame q p' (.past _ _ _ h hr hq) h' ha hn he
      | accept q p' hq h' f rest hd => exact .accept q p' (.past _ _ _ h hr hq) h' f rest hd

theorem decodeBuffer_answer (early : Bool) (buf : List Byte) (pos : Nat) :
    DecodeAnswer early buf pos (decodeBuffer early buf pos) :=
  decodeLoop_answer early buf _ pos (by omega)

/-- An accepted frame stands whole in the buffer (rules R99, R106). -/
theorem accepted_length {buf : List Byte} {p : Nat} {f : Frame} {rest : List Byte}
    (hd : decodeFields (buf.drop p) = .ok (f, rest)) :
    p + 11 + f.data.length + rest.length = buf.length ∧ f.data.length ≤ 8 := by
  obtain ⟨t0, t1, t2, t3, n, i0, i1, i2, i3, hbs, h1, h2, -⟩ := decodeFields_ok hd
  have := congrArg List.length hbs
  simp only [List.length_drop, List.length_cons, List.length_append] at this
  omega

/-- DECODE leaves its cursor in the buffer it leaves (rules R31 I1, R106). -/
theorem decodeBuffer_wf {early : Bool} {buf : List Byte} {pos : Nat} {r : DecodeOutcome} {buf' : List Byte} {pos' : Nat}
    (h : decodeBuffer early buf pos = (r, buf', pos')) : pos' ≤ buf'.length := by
  have ha := decodeBuffer_answer early buf pos
  rw [h] at ha
  cases ha with
  | noStart => simp
  | header q p hq h => exact Nat.le_of_lt h.lt
  | frame q p hq h => exact Nat.le_of_lt h.lt
  | accept q p hq hs f rest hd => exact Nat.le_of_lt hs.lt

/-- DECODE has one answer: what satisfies `DecodeAnswer` is what it answers (rule R102). -/
theorem DecodeAnswer.eq {early : Bool} {buf : List Byte} {pos : Nat} {r : DecodeOutcome × List Byte × Nat}
    (h : DecodeAnswer early buf pos r) : decodeBuffer early buf pos = r := by
  have h11 : Config.fixedLen = 11 := rfl
  have h8 : Config.maxDlc = 8 := rfl
  cases h with
  | noStart q hq h =>
    rw [decodeBuffer_of_rejects hq, decodeBuffer, decodeLoop]
    simp only [decode1, findStart_eq_none_iff.mpr h]
  | header q p hq h ha =>
    rw [decodeBuffer_of_rejects hq, decodeBuffer, decodeLoop]
    simp only [decode1, findStart_eq_some_iff.mpr h, h11, if_pos ha]
  | frame q p hq h ha hn he =>
    rw [decodeBuffer_of_rejects hq, decodeBuffer, decodeLoop]
    simp only [decode1, findStart_eq_some_iff.mpr h, decodeCandidate, h11, h8, if_neg (Nat.not_lt.mpr ha), if_pos hn]
    rw [if_neg (fun hc => by have := he hc.1; omega)]
  | accept q p hq h f rest hd =>
    have hl := accepted_length hd
    obtain ⟨t0, t1, t2, t3, n, i0, i1, i2, i3, hbs, h1, h2, -⟩ := decodeFields_ok hd
    have hn : buf.getD (p + 5) 0 = n := by
      have := congrArg (fun l => l[5]?) hbs
      simp only [List.getElem?_drop] at this
      simp [List.getD_eq_getElem?_getD, this]
    rw [decodeBuffer_of_rejects hq, decodeBuffer, decodeLoop]
    simp only [decode1, findStart_eq_some_iff.mpr h, h11, decodeCandidate, verdict, hd, hn]
    rw [if_neg (by omega), if_neg (by omega)]

/-- A frame at the cursor is found there (rules R96, R100). -/
theorem decodeBuffer_here {early : Bool} {buf : List Byte} {p : Nat} {f : Frame} {rest : List Byte}
    (hd : decodeFields (buf.drop p) = .ok (f, rest)) :
    decodeBuffer early buf p = (.frame f (11 + f.data.length) (p + 11 + f.data.length), buf, p) := by
  refine (DecodeAnswer.accept p p (.here p) ⟨Nat.le_refl _, ?_, fun i h1 h2 => by omega⟩ f rest hd).eq
  obtain ⟨t0, t1, t2, t3, n, i0, i1, i2, i3, hbs, -⟩ := decodeFields_ok hd
  have h0 := congrArg (fun l => l[0]?) hbs
  rw [List.getElem?_drop] at h0
  exact h0

/-! ### Dead bytes: the scan and the verdicts depend on the bytes at and after the cursor only (rule R32). -/

theorem IsFirstStart.drop {buf : List Byte} {k pos p : Nat} (h : IsFirstStart buf (k + pos) p) :
    IsFirstStart (buf.drop k) pos (p - k) := by
  obtain ⟨h1, h2, h3⟩ := h
  refine ⟨by omega, by rw [List.getElem?_drop, show k + (p - k) = p by omega]; exact h2, ?_⟩
  intro i hi hp
  rw [List.getElem?_drop]
  exact h3 (k + i) (by omega) (by omega)

theorem getD_drop (buf : List Byte) (k i : Nat) (d : Byte) : (buf.drop k).getD i d = buf.getD (k + i) d := by
  simp [List.getD_eq_getElem?_getD, List.getElem?_drop]

theorem RejectedAt.drop {early : Bool} {buf : List Byte} {k p : Nat} (hk : k ≤ p) (h : RejectedAt early buf p) :
    RejectedAt early (buf.drop k) (p - k) := by
  obtain ⟨h1, h2⟩ := h
  have e1 : (buf.drop k).getD (p - k + 5) 0 = buf.getD (p + 5) 0 := by
    rw [getD_drop]; congr 1; omega
  have e2 : (buf.drop k).drop (p - k) = buf.drop p := by
    rw [List.drop_drop]; congr 1; omega
  refine ⟨by rw [List.length_drop]; omega, ?_⟩
  rw [e1, e2, List.length_drop]
  rcases h2 with h2 | ⟨h2, h3⟩
  · exact .inl h2
  · exact .inr ⟨by omega, h3⟩

theorem Rejects.drop {early : Bool} {buf : List Byte} {k pos q : Nat} (h : Rejects early buf pos q) (hk : k ≤ pos) :
    Rejects early (buf.drop k) (pos - k) (q - k) := by
  induction h with
  | here => exact .here _
  | past pos p q hs hr hq ih =>
    have := hs.1
    refine .past _ (p - k) _ ?_ (hr.drop (by omega)) ?_
    · have hs' := hs
      rw [show pos = k + (pos - k) by omega] at hs'
      exact hs'.drop
    · rw [show p - k + 1 = p + 1 - k by omega]
      exact ih (by omega)

/-- DECODE that answers NeedMoreData does so without the dead bytes, and leaves the same live bytes (rule R32). -/
theorem decodeBuffer_drop_needMore {early : Bool} {buf : List Byte} {k pos : Nat} {arm : NeedArm} {buf' : List Byte}
    {pos' : Nat} (h : decodeBuffer early buf (k + pos) = (.needMore arm, buf', pos')) :
    ∃ buf'' pos'', decodeBuffer early (buf.drop k) pos = (.needMore arm, buf'', pos'') ∧
      buf''.drop pos'' = buf'.drop pos' := by
  have ha := decodeBuffer_answer early buf (k + pos)
  rw [h] at ha
  have step : ∀ {q}, Rejects early buf (k + pos) q → k ≤ q ∧ Rejects early (buf.drop k) pos (q - k) := fun hq =>
    ⟨by have := hq.le; omega, by have := hq.drop (k := k) (by omega); rwa [Nat.add_sub_cancel_left] at this⟩
  cases ha with
  | noStart q hq hn =>
    obtain ⟨h1, h2⟩ := step hq
    exact ⟨[], 0, (DecodeAnswer.noStart _ h2 fun i hi => by rw [List.getElem?_drop]; exact hn _ (by omega)).eq, rfl⟩
  | header q p hq hs hl =>
    obtain ⟨h1, h2⟩ := step hq
    have := hs.1
    refine ⟨buf.drop k, pos' - k, (DecodeAnswer.header (q - k) _ h2 ?_ (by rw [List.length_drop]; omega)).eq, ?_⟩
    · exact IsFirstStart.drop (by rwa [Nat.add_sub_cancel' h1])
    · rw [List.drop_drop]; congr 1; omega
  | frame q p hq hs hl hn he =>
    obtain ⟨h1, h2⟩ := step hq
    have := hs.1
    have e : (buf.drop k).getD (pos' - k + 5) 0 = buf.getD (pos' + 5) 0 := by rw [getD_drop]; congr 1; omega
    refine ⟨buf.drop k, pos' - k, (DecodeAnswer.frame (q - k) _ h2 ?_ (by rw [List.length_drop]; omega)
      (by rw [List.length_drop, e]; omega) (by rw [e]; exact he)).eq, ?_⟩
    · exact IsFirstStart.drop (by rwa [Nat.add_sub_cancel' h1])
    · rw [List.drop_drop]; congr 1; omega

/-- DECODE that answers a Frame finds the same frame without the dead bytes (rule R32). -/
theorem decodeBuffer_drop_frame {early : Bool} {buf : List Byte} {k pos : Nat} {f : Frame} {consumed frameEnd : Nat}
    {buf' : List Byte} {p : Nat} (h : decodeBuffer early buf (k + pos) = (.frame f consumed frameEnd, buf', p)) :
    decodeBuffer early (buf.drop k) pos = (.frame f consumed (frameEnd - k), buf.drop k, p - k) := by
  have ha := decodeBuffer_answer early buf (k + pos)
  rw [h] at ha
  cases ha with
  | accept q p' hq hs f' rest hd =>
    have h1 := hq.le
    have h2 := hs.1
    have h3 := hq.drop (k := k) (by omega)
    rw [Nat.add_sub_cancel_left] at h3
    have := (DecodeAnswer.accept (early := early) (q - k) (p - k) h3
      (IsFirstStart.drop (by rwa [Nat.add_sub_cancel' (by omega : k ≤ q)])) f rest
      (by rw [List.drop_drop, Nat.add_sub_cancel' (by omega : k ≤ p)]; exact hd)).eq
    rw [this, show p - k + 11 + f.data.length = p + 11 + f.data.length - k by omega]

/-! ### More bytes: a verdict once reached stands whatever arrives behind it (rule R104). -/

theorem getD_append_left {buf : List Byte} (more : List Byte) {i : Nat} (h : i < buf.length) (d : Byte) :
    (buf ++ more).getD i d = buf.getD i d := by
  rw [List.getD_eq_getElem?_getD, List.getD_eq_getElem?_getD, List.getElem?_append_left h]

theorem IsFirstStart.append {buf : List Byte} {pos p : Nat} (h : IsFirstStart buf pos p) (more : List Byte) :
    IsFirstStart (buf ++ more) pos p := by
  have hlt := h.lt
  refine ⟨h.1, by rw [List.getElem?_append_left hlt]; exact h.2.1, ?_⟩
  intro i hi hp
  rw [List.getElem?_append_left (by omega)]
  exact h.2.2 i hi hp

/-- Bytes behind an accepted frame change nothing but what follows it. -/
theorem decodeFields_append {bs rest : List Byte} {f : Frame} (h : decodeFields bs = .ok (f, rest)) (more : List Byte) :
    decodeFields (bs ++ more) = .ok (f, rest ++ more) := by
  obtain ⟨t0, t1, t2, t3, n, i0, i1, i2, i3, rfl, h1, h2, h3, h4, h5⟩ := decodeFields_ok h
  have := decodeFields_shape h1 h2 h3 h4 h5 (rest ++ more)
  simpa using this

/-- Bytes behind a complete invalid candidate do not make it valid. -/
theorem decodeFields_append_error {bs : List Byte} (hl : 11 ≤ bs.length) (hc : 11 + (bs.getD 5 0).toNat ≤ bs.length)
    (h : ∀ f rest, decodeFields bs ≠ .ok (f, rest)) (more : List Byte) (f : Frame) (rest : List Byte) :
    decodeFields (bs ++ more) ≠ .ok (f, rest) := by
  intro hd
  obtain ⟨t0, t1, t2, t3, n, i0, i1, i2, i3, hbs, h1, h2, h3, h4, h5⟩ := decodeFields_ok hd
  have hn : bs.getD 5 0 = n := by
    rw [← getD_append_left more (by omega) 0, hbs]; rfl
  rw [hn] at hc
  have hlen := congrArg List.length hbs
  simp only [List.length_append, List.length_cons] at hlen
  have hpre : ∀ m, bs.length = m + 11 + f.data.length → bs = Config.startByte :: t0 :: t1 :: t2 :: t3 :: n :: i0 :: i1 ::
      i2 :: i3 :: (f.data ++ Config.endByte :: rest.take m) := by
    intro m hm
    have ht := congrArg (List.take bs.length) hbs
    rw [List.take_left, hm] at ht
    rw [ht, show m + 11 + f.data.length = (f.data.length + (m + 1)) + 1 + 1 + 1 + 1 + 1 + 1 + 1 + 1 + 1 + 1 by omega]
    simp only [List.take_succ_cons, List.take_length_add_append]
  rw [hpre (bs.length - 11 - f.data.length) (by omega)] at h
  exact h f _ (decodeFields_shape h1 h2 h3 h4 h5 _)

theorem RejectedAt.append {early : Bool} {buf : List Byte} {i : Nat} (h : RejectedAt early buf i) (more : List Byte) :
    RejectedAt early (buf ++ more) i := by
  have h11 : Config.fixedLen = 11 := rfl
  obtain ⟨h1, h2⟩ := h
  simp only [h11] at h1 h2
  have e : (buf ++ more).getD (i + 5) 0 = buf.getD (i + 5) 0 := getD_append_left more (by omega) 0
  refine ⟨by simp only [List.length_append, h11]; omega, ?_⟩
  rw [e, h11, List.length_append]
  rcases h2 with h2 | ⟨h2, h3⟩
  · exact .inl h2
  · refine .inr ⟨by omega, ?_⟩
    rw [List.drop_append_of_le_length (by omega)]
    refine decodeFields_append_error (by rw [List.length_drop]; omega) ?_ h3 more
    rw [getD_drop, List.length_drop]; omega

theorem Rejects.append {early : Bool} {buf : List Byte} {pos q : Nat} (h : Rejects early buf pos q) (more : List Byte) :
    Rejects early (buf ++ more) pos q := by
  induction h with
  | here => exact .here _
  | past pos p q hs hr _ ih => exact .past _ _ _ (hs.append more) (hr.append more) ih

/-- A frame once found is found whatever arrives behind it (rule R104). -/
theorem decodeBuffer_append_frame {early : Bool} {buf : List Byte} {pos : Nat} {f : Frame} {consumed frameEnd : Nat}
    {buf' : List Byte} {p : Nat} (h : decodeBuffer early buf pos = (.frame f consumed frameEnd, buf', p))
    (more : List Byte) : decodeBuffer early (buf ++ more) pos = (.frame f consumed frameEnd, buf ++ more, p) := by
  have ha := decodeBuffer_answer early buf pos
  rw [h] at ha
  cases ha with
  | accept q p' hq hs f' rest hd =>
    have := hs.lt
    exact (DecodeAnswer.accept q p (hq.append more) (hs.append more) f (rest ++ more)
      (by rw [List.drop_append_of_le_length (by omega)]; exact decodeFields_append hd more)).eq

end Sys2Proof.Machine
end

