-- ==== Sys2Proof/Laws/Float64.lean ====
section
/-! SUPPORT. What rounding and the conversion to binary64 give, said once (rule R11). -/

namespace Sys2Proof.Machine

/-- Rounding is off by at most a half. -/
theorem roundHalfEven_bounds (n d : Nat) (hd : 0 < d) :
    2 * n ≤ (2 * roundHalfEven n d + 1) * d ∧ 2 * roundHalfEven n d * d ≤ 2 * n + d := by
  have hn : d * (n / d) + n % d = n := Nat.div_add_mod n d
  have hr : n % d < d := Nat.mod_lt n hd
  have he : (n / d) % 2 = 0 ∨ (n / d) % 2 = 1 := by omega
  unfold roundHalfEven
  simp only
  generalize n / d = q at *
  generalize n % d = r at *
  subst hn
  split
  · constructor <;> nlinarith
  · split
    · constructor <;> nlinarith
    · rcases he with he | he <;> rw [he] <;> constructor <;> nlinarith

/-- A number strictly within a half of an integer rounds to it. -/
theorem roundHalfEven_eq (n d k : Nat) (h1 : 2 * n < (2 * k + 1) * d) (h2 : 2 * k * d < 2 * n + d) :
    roundHalfEven n d = k := by
  have hd : 0 < d := Nat.pos_of_ne_zero (by rintro rfl; omega)
  obtain ⟨b1, b2⟩ := roundHalfEven_bounds n d hd
  generalize roundHalfEven n d = m at *
  rcases Nat.lt_trichotomy m k with h | h | h
  · have : (2 * m + 2) * d ≤ 2 * k * d := Nat.mul_le_mul_right d (by omega)
    nlinarith
  · exact h
  · have : (2 * k + 2) * d ≤ 2 * m * d := Nat.mul_le_mul_right d (by omega)
    nlinarith

/-- An exact quotient rounds to itself. -/
theorem roundHalfEven_exact (k d : Nat) (hd : 0 < d) : roundHalfEven (k * d) d = k :=
  roundHalfEven_eq _ _ _ (by nlinarith) (by nlinarith)

/-- Rounding preserves order: `n / d ≤ n' / d'` is `n * d' ≤ n' * d`. -/
theorem roundHalfEven_mono {n d n' d' : Nat} (hd : 0 < d) (hd' : 0 < d') (h : n * d' ≤ n' * d) :
    roundHalfEven n d ≤ roundHalfEven n' d' := by
  by_contra hlt
  obtain ⟨a1, a2⟩ := roundHalfEven_bounds n d hd
  obtain ⟨b1, b2⟩ := roundHalfEven_bounds n' d' hd'
  have hm : roundHalfEven n' d' + 1 ≤ roundHalfEven n d := by omega
  have e1 : 2 * n' * d ≤ (2 * roundHalfEven n' d' + 1) * d' * d := Nat.mul_le_mul_right d b1
  have e2 : 2 * roundHalfEven n d * d * d' ≤ (2 * n + d) * d' := Nat.mul_le_mul_right d' a2
  have e3 : (2 * roundHalfEven n' d' + 2) * (d * d') ≤ 2 * roundHalfEven n d * (d * d') :=
    Nat.mul_le_mul_right _ (by omega)
  have key : 2 * n * d' + d * d' ≥ (2 * roundHalfEven n' d' + 2) * (d * d') := by nlinarith
  have key2 : 2 * n * d' ≤ (2 * roundHalfEven n' d' + 1) * (d * d') := by nlinarith
  -- both are a half: the two quotients are equal, and so are their roundings
  have heq : n * d' = n' * d := by nlinarith
  have hm' : roundHalfEven n d = roundHalfEven n' d' + 1 := by
    by_contra hne
    have : (2 * roundHalfEven n' d' + 4) * (d * d') ≤ 2 * roundHalfEven n d * (d * d') :=
      Nat.mul_le_mul_right _ (by omega)
    have : 0 < d * d' := Nat.mul_pos hd hd'
    nlinarith
  have hq : n / d = n' / d' := by
    have := congrArg (· / (d * d')) heq
    simp only [Nat.mul_div_mul_right _ _ hd'] at this
    rw [this, Nat.mul_comm d d', Nat.mul_div_mul_right _ _ hd]
  have hr : n % d * d' = n' % d' * d := by
    have h1 := Nat.div_add_mod n d
    have h2 := Nat.div_add_mod n' d'
    rw [hq] at h1
    have : (d * (n' / d') + n % d) * d' = (d' * (n' / d') + n' % d') * d := by rw [h1, h2, heq]
    nlinarith
  have : roundHalfEven n d = roundHalfEven n' d' := by
    unfold roundHalfEven
    simp only [hq]
    have c1 : (2 * (n % d) < d) ↔ (2 * (n' % d') < d') := by
      constructor <;> intro h <;> by_contra hc <;> nlinarith
    have c2 : (d < 2 * (n % d)) ↔ (d' < 2 * (n' % d')) := by
      constructor <;> intro h <;> by_contra hc <;> nlinarith
    simp only [c1, c2]
  omega

namespace Float64

/-- What the bits `e * 2^52 + m` stand for: the number `m * 2^e` of units, a carry out of the fraction included. -/
theorem mag_bits (e m : Nat) (hm : m ≤ 2 ^ 53) (hlo : e = 0 ∨ 2 ^ 52 ≤ m) (hb : e * 2 ^ 52 + m < 2047 * 2 ^ 52) :
    mag (BitVec.ofNat 64 (e * 2 ^ 52 + m)) = m * 2 ^ e ∧ expField (BitVec.ofNat 64 (e * 2 ^ 52 + m)) < 2047 ∧
      sign (BitVec.ofNat 64 (e * 2 ^ 52 + m)) = false := by
  have hx : ∀ b, b < 2047 * 2 ^ 52 → expField (BitVec.ofNat 64 b) = b / 2 ^ 52 ∧ frac (BitVec.ofNat 64 b) = b % 2 ^ 52 ∧
      sign (BitVec.ofNat 64 b) = false := by
    intro b hb
    refine ⟨?_, ?_, ?_⟩
    · simp only [expField, BitVec.extractLsb'_toNat, BitVec.toNat_ofNat, Nat.shiftRight_eq_div_pow]; omega
    · simp only [frac, BitVec.extractLsb'_toNat, BitVec.toNat_ofNat, Nat.shiftRight_zero]; omega
    · rw [sign, BitVec.getLsbD, BitVec.toNat_ofNat, Nat.mod_eq_of_lt (by omega)]
      exact Nat.testBit_lt_two_pow (by omega)
  obtain ⟨h1, h2, h3⟩ := hx _ hb
  refine ⟨?_, by rw [h1]; omega, h3⟩
  rw [mag, h1, h2]
  rcases Nat.lt_trichotomy m (2 ^ 53) with hlt | heq | hgt
  · by_cases hs : m < 2 ^ 52
    · have he : e = 0 := by omega
      subst he
      rw [if_pos (by omega)]; omega
    · have hd : (e * 2 ^ 52 + m) / 2 ^ 52 = e + 1 := by omega
      have hf : (e * 2 ^ 52 + m) % 2 ^ 52 = m - 2 ^ 52 := by omega
      rw [hd, hf, if_neg (by omega), Nat.add_sub_cancel, show 2 ^ 52 + (m - 2 ^ 52) = m by omega]
  · have hd : (e * 2 ^ 52 + m) / 2 ^ 52 = e + 2 := by omega
    have hf : (e * 2 ^ 52 + m) % 2 ^ 52 = 0 := by omega
    rw [hd, hf, if_neg (by omega), heq, show e + 2 - 1 = e + 1 by omega, Nat.pow_succ]
    ring
  · omega

/-- The significand a quotient rounds to, in the binade of its exact value. -/
theorem significand_bounds (scaled d : Nat) (hd : 0 < d) :
    roundHalfEven scaled (d * 2 ^ (Nat.log2 (scaled / d) - 52)) ≤ 2 ^ 53 ∧
      (Nat.log2 (scaled / d) - 52 = 0 ∨ 2 ^ 52 ≤ roundHalfEven scaled (d * 2 ^ (Nat.log2 (scaled / d) - 52))) := by
  have hdm : 0 < d * 2 ^ (Nat.log2 (scaled / d) - 52) := by positivity
  have hlt : scaled / d < 2 ^ (Nat.log2 (scaled / d) + 1) := Nat.lt_log2_self
  have hs : scaled < d * 2 ^ (Nat.log2 (scaled / d) + 1) := by
    rw [Nat.mul_comm]; exact (Nat.div_lt_iff_lt_mul hd).mp hlt
  constructor
  · have := roundHalfEven_mono (n := scaled) (n' := 2 ^ 53 * 1) (d' := 1) hdm Nat.one_pos (by
      rw [Nat.mul_one, Nat.mul_one]
      refine Nat.le_trans (Nat.le_of_lt hs) ?_
      rw [show 2 ^ 53 * (d * 2 ^ (Nat.log2 (scaled / d) - 52)) = d * (2 ^ (53 + (Nat.log2 (scaled / d) - 52))) by
        rw [Nat.pow_add]; ring]
      exact Nat.mul_le_mul_left _ (Nat.pow_le_pow_right (by decide) (by omega)))
    rwa [roundHalfEven_exact _ _ Nat.one_pos] at this
  · by_cases h : Nat.log2 (scaled / d) - 52 = 0
    · exact .inl h
    · refine .inr ?_
      have hne : scaled / d ≠ 0 := by
        intro h0; rw [h0] at h; simp at h
      have hle : 2 ^ Nat.log2 (scaled / d) ≤ scaled / d := Nat.log2_self_le hne
      have := roundHalfEven_mono (n := 2 ^ 52 * 1) (d := 1) (n' := scaled) Nat.one_pos hdm (by
        rw [Nat.mul_one, Nat.mul_one]
        rw [show 2 ^ 52 * (d * 2 ^ (Nat.log2 (scaled / d) - 52)) = 2 ^ (52 + (Nat.log2 (scaled / d) - 52)) * d by
          rw [Nat.pow_add]; ring]
        rw [show 52 + (Nat.log2 (scaled / d) - 52) = Nat.log2 (scaled / d) by omega]
        exact Nat.le_trans (Nat.mul_le_mul_right d hle) (Nat.div_mul_le_self _ _))
      rwa [roundHalfEven_exact _ _ Nat.one_pos] at this

/-- The magnitude of the binary64 nearest `n / d`: a significand times a power of two, below the overflow threshold. -/
theorem mag_ofRat (n d : Nat) (hd : 0 < d) (hb : Nat.log2 (n * one / d) < 2096) :
    mag (ofRat n d) =
        roundHalfEven (n * one) (d * 2 ^ (Nat.log2 (n * one / d) - 52)) * 2 ^ (Nat.log2 (n * one / d) - 52) ∧
      expField (ofRat n d) < 2047 ∧ sign (ofRat n d) = false := by
  obtain ⟨h1, h2⟩ := significand_bounds (n * one) d hd
  have hlt : (Nat.log2 (n * one / d) - 52) * 2 ^ 52 +
      roundHalfEven (n * one) (d * 2 ^ (Nat.log2 (n * one / d) - 52)) < 2047 * 2 ^ 52 := by omega
  rw [ofRat]
  rw [Nat.min_eq_left (Nat.le_of_lt hlt)]
  exact mag_bits _ _ h1 h2 hlt

/-- The rounding error of a normal result: at most one part in `2^53`. -/
theorem mag_ofRat_error (n d : Nat) (hd : 0 < d) (hb : Nat.log2 (n * one / d) < 2096) (hn : 2 ^ 52 ≤ n * one / d) :
    2 ^ 53 * (n * one) ≤ 2 ^ 53 * (mag (ofRat n d) * d) + n * one ∧
      2 ^ 53 * (mag (ofRat n d) * d) ≤ 2 ^ 53 * (n * one) + n * one := by
  rw [(mag_ofRat n d hd hb).1]
  have hdm : 0 < d * 2 ^ (Nat.log2 (n * one / d) - 52) := by positivity
  obtain ⟨b1, b2⟩ := roundHalfEven_bounds (n * one) _ hdm
  have hne : n * one / d ≠ 0 := by omega
  have hle : 2 ^ Nat.log2 (n * one / d) ≤ n * one / d := Nat.log2_self_le hne
  have h52 : 52 ≤ Nat.log2 (n * one / d) := (Nat.le_log2 hne).mpr hn
  have hpow : 2 ^ 52 * (d * 2 ^ (Nat.log2 (n * one / d) - 52)) ≤ n * one := by
    rw [show 2 ^ 52 * (d * 2 ^ (Nat.log2 (n * one / d) - 52)) = 2 ^ (52 + (Nat.log2 (n * one / d) - 52)) * d by
      rw [Nat.pow_add]; ring]
    rw [show 52 + (Nat.log2 (n * one / d) - 52) = Nat.log2 (n * one / d) by omega]
    exact Nat.le_trans (Nat.mul_le_mul_right d hle) (Nat.div_mul_le_self _ _)
  generalize Nat.log2 (n * one / d) - 52 = e at *
  generalize n * one = x at *
  generalize roundHalfEven x (d * 2 ^ e) = m at *
  generalize 2 ^ e = p at *
  have hm : m * p * d = m * (d * p) := by ring
  rw [hm]
  generalize d * p = u at *
  constructor <;> nlinarith

/-- The binary64 magnitude does not fall when the quotient does not. -/
theorem mag_ofRat_mono {n n' d : Nat} (hd : 0 < d) (hb : Nat.log2 (n' * one / d) < 2096) (h : n ≤ n') :
    mag (ofRat n d) ≤ mag (ofRat n' d) := by
  have hq : n * one / d ≤ n' * one / d := Nat.div_le_div_right (Nat.mul_le_mul_right _ h)
  have hlog : Nat.log2 (n * one / d) ≤ Nat.log2 (n' * one / d) := by
    rcases Nat.eq_zero_or_pos (n * one / d) with h0 | h0
    · rw [h0]; simp
    · exact (Nat.le_log2 (by omega)).mpr (Nat.le_trans (Nat.log2_self_le (by omega)) hq)
  rw [(mag_ofRat n d hd (by omega)).1, (mag_ofRat n' d hd hb).1]
  obtain ⟨h1, -⟩ := significand_bounds (n * one) d hd
  obtain ⟨-, h2⟩ := significand_bounds (n' * one) d hd
  rcases Nat.eq_or_lt_of_le (show Nat.log2 (n * one / d) - 52 ≤ Nat.log2 (n' * one / d) - 52 by omega) with he | he
  · rw [he]
    refine Nat.mul_le_mul_right _ (roundHalfEven_mono (by positivity) (by positivity) ?_)
    exact Nat.mul_le_mul_right _ (Nat.mul_le_mul_right _ h)
  · have h2' := h2.resolve_left (by omega)
    generalize Nat.log2 (n * one / d) - 52 = e at *
    generalize Nat.log2 (n' * one / d) - 52 = e' at *
    calc _ ≤ 2 ^ 53 * 2 ^ e := Nat.mul_le_mul_right _ h1
      _ = 2 ^ 52 * 2 ^ (e + 1) := by rw [Nat.pow_succ]; ring
      _ ≤ 2 ^ 52 * 2 ^ e' := Nat.mul_le_mul_left _ (Nat.pow_le_pow_right (by decide) he)
      _ ≤ _ := Nat.mul_le_mul_right _ h2'

theorem unit_pos : 0 < one := Nat.pos_of_ne_zero (by decide +kernel)

theorem pow_mul_one (a : Nat) : 2 ^ a * one = 2 ^ (a + 1074) := by unfold one; rw [← Nat.pow_add]

/-- A natural number below 2^53 is represented exactly. -/
theorem mag_ofNat (k : Nat) (hk : k < 2 ^ 53) :
    mag (ofNat k) = k * one ∧ expField (ofNat k) < 2047 ∧ sign (ofNat k) = false := by
  have hlog : Nat.log2 (k * one / 1) < 53 + 1074 := by
    rw [Nat.div_one]
    rcases Nat.eq_zero_or_pos k with rfl | hp
    · simp
    · rw [Nat.log2_lt (Nat.ne_of_gt (Nat.mul_pos hp unit_pos)), ← pow_mul_one 53]
      exact Nat.mul_lt_mul_of_pos_right hk unit_pos
  obtain ⟨h1, h2, h3⟩ := mag_ofRat k 1 Nat.one_pos (by omega)
  refine ⟨?_, h2, h3⟩
  rw [ofNat, h1, Nat.one_mul]
  have he : Nat.log2 (k * one / 1) - 52 ≤ 1074 := by omega
  generalize Nat.log2 (k * one / 1) - 52 = e at *
  have : k * one = (k * 2 ^ (1074 - e)) * 2 ^ e := by
    unfold one; rw [Nat.mul_assoc, ← Nat.pow_add, Nat.sub_add_cancel he]
  rw [this, roundHalfEven_exact _ _ (by positivity)]

end Float64

end Sys2Proof.Machine
end

