-- ==== Sys2Proof/Laws/Operands.lean ====
section
/-! SUPPORT. What the operand and result registers denote, and what `Violation` and ENCODE do with an operand, said once. -/

namespace Sys2Proof.Machine

@[simp] theorem operand_id (fill : Nat → Byte) (m : MsgIn) : (m.operand fill).id = m.id := rfl
@[simp] theorem operand_ts (fill : Nat → Byte) (m : MsgIn) : (m.operand fill).ts = m.ts := rfl
@[simp] theorem operand_ext (fill : Nat → Byte) (m : MsgIn) : (m.operand fill).ext = m.ext := rfl

/-- The operand's data has `len` bytes, over-long or not (rule R26). -/
@[simp] theorem operand_data_length (fill : Nat → Byte) (m : MsgIn) : (m.operand fill).data.length = m.len.toNat := by
  simp [MsgIn.operand]

/-- The first `len` lanes are the operand's data (rule R26). -/
theorem operand_data_getElem? (fill : Nat → Byte) (m : MsgIn) {k : Nat} (h : k < 8) (hk : k < m.len.toNat) :
    (m.operand fill).data[k]? = some m.data[k] := by
  simp [MsgIn.operand, h, hk]

/-- An operand that is not over-long holds no free byte (rule R26). -/
theorem operand_data (fill : Nat → Byte) (m : MsgIn) (h : m.len.toNat ≤ 8) :
    (m.operand fill).data = m.data.toList.take m.len.toNat := by
  apply List.ext_getElem
  · simp; omega
  · intro k h1 h2
    have hk : k < m.len.toNat := by simpa using h1
    have h8 : k < 8 := by omega
    simp [MsgIn.operand, h8]

/-- `Violation` of an operand does not depend on its free bytes (rule R26). -/
theorem violation_operand (fill : Nat → Byte) (m : MsgIn) :
    violation (m.operand fill) =
      if 536870911 < m.id.toNat then some .arbitrationId
      else if 8 < m.len.toNat then some .payloadLength
      else if tsValid m.ts = false then some .timestamp
      else none := by
  simp only [violation, Config.idMax, Config.maxDlc, operand_id, operand_data_length, operand_ts]
  rfl

/-- ENCODE of an operand (rule R90). -/
theorem encodeMessage_operand (fill : Nat → Byte) (m : MsgIn) (hid : m.id.toNat ≤ 536870911) (hlen : m.len.toNat ≤ 8)
    (hts : tsValid m.ts = true) :
    encodeMessage (m.operand fill) = .ok ([Config.startByte] ++ bytesBe32 (tsQuant m.ts) ++ [m.len] ++ bytesBe32 m.id ++
      m.data.toList.take m.len.toNat ++ [Config.endByte]) := by
  have hv : violation (m.operand fill) = none := by
    rw [violation_operand, if_neg (by omega), if_neg (by omega), if_neg (by simp [hts])]
  have hw : (m.id.setWidth 29).setWidth 32 = m.id := by
    apply BitVec.eq_of_toNat_eq
    simp only [BitVec.toNat_setWidth]
    have := m.id.isLt
    omega
  have hl : (m.data.toList.take m.len.toNat).length = m.len.toNat := by simp; omega
  simp only [encodeMessage, hv, Message.frame, encodeFields, operand_ts, operand_id, operand_data fill m hlen, hw, hl]
  simp

/-- A lane register's first lanes are the bytes put into it (rule R27). -/
theorem lanes_getElem (n : Nat) (fill : Nat → Byte) (bs : List Byte) {k : Nat} (h : k < n) (hk : k < bs.length) :
    (lanes n fill bs)[k] = bs[k] := by
  simp [lanes, hk]

/-- A lane register's first lanes are the bytes put into it (rule R27). -/
theorem lanes_take (n : Nat) (fill : Nat → Byte) (bs : List Byte) (h : bs.length ≤ n) :
    (lanes n fill bs).toList.take bs.length = bs := by
  apply List.ext_getElem
  · simp; omega
  · intro k h1 h2
    simp [lanes, h2]

end Sys2Proof.Machine
end

