-- ==== Sys2Proof/Laws/Ops.lean ====
section
/-! SUPPORT. What each shared operation over the buffer and the channel can do, said once, and that the buffer keeps its form
(rules R31, R44 to R47). -/

namespace Sys2Proof.Machine

/-! ### The buffer -/

/-- A read of `n` bytes that exist gives `n` bytes (rule R44). -/
theorem memRead_length {s : State} {addr n : Nat} {bs : List Byte} (h : s.memRead addr n = some bs) : bs.length = n := by
  unfold State.memRead slice at h
  split at h
  · cases h; simp; omega
  · cases h

/-- `RxAppend` leaves every byte that was there where it was (rules R22, R44). -/
theorem byteAt_rxAppend {bs : List Byte} {s : State} {addr : Nat} (h : addr < s.rxbuf.length) :
    (s.rxAppend bs).byteAt addr = s.byteAt addr := by
  simp only [State.byteAt, State.rxAppend]
  exact List.getElem?_append_left h

/-- `RxAppend` puts its bytes at the end (rule R44). -/
theorem byteAt_rxAppend_end (bs : List Byte) (s : State) (k : Nat) :
    (s.rxAppend bs).byteAt (s.rxbuf.length + k) = bs[k]? := by
  simp only [State.byteAt, State.rxAppend]
  rw [List.getElem?_append_right (Nat.le_add_right _ _), Nat.add_sub_cancel_left]

/-- `RxDrop` shifts what it keeps to the front (rule R44). -/
theorem byteAt_rxDrop (k : Nat) (s : State) (addr : Nat) : (s.rxDrop k).byteAt addr = s.byteAt (k + addr) := by
  simp [State.byteAt, State.rxDrop]

theorem rxAppend_wf {bs : List Byte} {s : State} (h : Memory.wf s) : Memory.wf (s.rxAppend bs) := by
  simp only [Memory.wf, State.rxAppend, List.length_append] at *; omega

theorem rxDrop_wf (k : Nat) (s : State) : Memory.wf (s.rxDrop k) := Nat.zero_le _

theorem resetBlock_wf (s : State) : Memory.wf s.resetBlock := Nat.zero_le _

theorem reset_wf : Memory.wf State.reset := Nat.zero_le _

/-- Every memory operation keeps the buffer's form (rule R31, I1); what DECODE writes back has it (`decodeBuffer_wf`). -/
theorem memory_wf_kept (s : State) (h : Memory.wf s) :
    (∀ bs, Memory.wf (s.rxAppend bs)) ∧ (∀ k, Memory.wf (s.rxDrop k)) ∧ Memory.wf s.resetBlock ∧
      ∀ r buf pos, decodeBuffer s.build.earlyDlcReject s.rxbuf s.sp = (r, buf, pos) →
        Memory.wf { s with rxbuf := buf, sp := pos } :=
  ⟨fun _ => rxAppend_wf h, fun k => rxDrop_wf k s, resetBlock_wf s, fun _ _ _ hd => decodeBuffer_wf hd⟩

/-! ### The channel -/

/-- A channel that has accepted bytes (rules R45, R52). -/
theorem accept_fields (bs : List Byte) (ch : Channel) :
    (ch.accept bs).txStream = ch.txStream ++ bs ∧ (ch.accept bs).kind = ch.kind ∧ (ch.accept bs).isOpen = ch.isOpen ∧
      (ch.accept bs).writeFailed = ch.writeFailed ∧ (ch.accept bs).readFailed = ch.readFailed ∧
      (ch.accept bs).writes = ch.writes ∧ (ch.accept bs).reads = ch.reads ∧
      (ch.kind = .external → (ch.accept bs).rxStream = ch.rxStream) ∧
      (ch.kind = .loopback → (ch.accept bs).rxStream = ch.rxStream ++ bs) := by
  unfold Channel.accept
  cases hk : ch.kind <;> simp

/-- Everything a `ChWrite` that accepts can do (rule R45): no more than was offered, and it joins the TX stream. -/
theorem chWrite_accepted {ch : Channel} {bs : List Byte} {c : Nat} {ch' : Channel} (h : chWrite ch bs = .accepted c ch') :
    ch.writable = true ∧ c ≤ bs.length ∧ ∃ ws, ch' = { ch with writes := ws }.accept (bs.take c) := by
  unfold chWrite at h
  split at h
  · cases h
  · rename_i ho
    refine ⟨by simpa using ho, ?_⟩
    have key : ∀ (ch₀ : Channel) (n : Nat), ch₀.acceptCount bs n = .accepted c ch' →
        c ≤ bs.length ∧ ch' = ch₀.accept (bs.take c) := by
      intro ch₀ n hc
      unfold Channel.acceptCount at hc
      split at hc
      · cases hc
      · cases hc; exact ⟨by omega, rfl⟩
    split at h <;> first
      | cases h
      | (obtain ⟨h1, h2⟩ := key _ _ h; exact ⟨h1, _, h2⟩)

/-- A `ChWrite` that fails accepts nothing; it fails for good, or the channel could not be written before (rules R45, R47,
R161). -/
theorem chWrite_failed {ch : Channel} {bs : List Byte} {ch' : Channel} (h : chWrite ch bs = .failed ch') :
    ch.writable = false ∧ ch' = ch ∨
      ch.kind = .external ∧ ∃ ws, ch.writes = .fail :: ws ∧ ch' = { ch with writes := ws, writeFailed := true } := by
  unfold chWrite Channel.acceptCount at h
  (repeat' split at h) <;> cases h
  · exact .inl ⟨‹_›, rfl⟩
  · exact .inr ⟨‹_›, _, ‹_›, rfl⟩

/-- A `ChWrite` on a channel that has failed fails (rule R161). -/
theorem chWrite_of_not_writable {ch : Channel} (h : ch.writable = false) (bs : List Byte) : chWrite ch bs = .failed ch := by
  simp [chWrite, h]

/-- Everything an external channel without a script answers to a `ChRead` (rules R119, R127): it blocks an Infinite one
only, and the others end with what it holds. -/
theorem unscripted_eq (max : Nat) (t : Timeout) (ch : Channel) :
    ch.unscripted max t =
      if t = .infinite then .waiting
      else .bytes (ch.rxStream.take (min ch.rxStream.length max)) true
        { ch with rxStream := ch.rxStream.drop (min ch.rxStream.length max) } := by
  cases t <;> rfl

/-- Only an Infinite `ChRead` blocks, and only on an open external channel that has not answered (rules R47, R119, R127). -/
theorem chRead_waiting_iff {ch : Channel} {max : Nat} {t : Timeout} :
    chRead ch max t = .waiting ↔ t = .infinite ∧ ch.readable = true ∧ ch.kind = .external ∧ ch.reads = [] := by
  unfold chRead Channel.handOver
  (repeat' split) <;> simp_all [unscripted_eq]

/-- Everything a `ChRead` that answers bytes can do (rules R46, R119): a beginning of the RX stream, removed from it. -/
theorem chRead_bytes {ch : Channel} {max : Nat} {t : Timeout} {bs : List Byte} {e : Bool} {ch' : Channel}
    (h : chRead ch max t = .bytes bs e ch') :
    ∃ k rs, k ≤ max ∧ k ≤ ch.rxStream.length ∧ bs = ch.rxStream.take k ∧
      ch' = { ch with rxStream := ch.rxStream.drop k, reads := rs } ∧ (t = .zero → e = true) ∧ (t = .infinite → e = false) := by
  unfold chRead at h
  split at h
  · cases h
  · split at h
    · rw [unscripted_eq] at h
      split at h
      · cases h
      · cases h
        exact ⟨_, ch.reads, by omega, by omega, rfl, rfl, fun _ => rfl, fun ht => absurd ht ‹_›⟩
    · cases h
    · unfold Channel.handOver at h
      split at h
      · cases h
      · rename_i hk
        cases h
        exact ⟨_, _, by omega, by omega, rfl, rfl, by rintro rfl; rfl, by rintro rfl; rfl⟩
    · unfold Channel.handOver at h
      cases h
      exact ⟨_, _, by omega, by omega, rfl, rfl, by rintro rfl; rfl, by rintro rfl; rfl⟩

/-- What a new channel holds (rules R52, R163): it is open, nothing has been accepted, and a loopback queue is empty. -/
theorem newChannel_fields (c : NewChannel) :
    c.channel.isOpen = true ∧ c.channel.writeFailed = false ∧ c.channel.readFailed = false ∧ c.channel.txStream = [] ∧ (c.channel.kind = .loopback → c.channel.rxStream = []) := by
  cases c <;> simp [NewChannel.channel, Channel.fresh]

/-- A `ChRead` that fails hands nothing over; it fails for good, or the channel could not be read before (rules R46, R47,
R161). -/
theorem chRead_failed {ch : Channel} {max : Nat} {t : Timeout} {ch' : Channel} (h : chRead ch max t = .failed ch') :
    ch.readable = false ∧ ch' = ch ∨
      ch.kind = .external ∧ ∃ rs, ch.reads = .fail :: rs ∧ ch' = { ch with reads := rs, readFailed := true } := by
  unfold chRead Channel.handOver at h
  simp only [unscripted_eq] at h
  (repeat' split at h) <;> cases h
  · exact .inl ⟨‹_›, rfl⟩
  · exact .inr ⟨‹_›, _, ‹_›, rfl⟩

/-- A `ChRead` on a channel that has failed fails (rule R161). -/
theorem chRead_of_not_readable {ch : Channel} (h : ch.readable = false) (max : Nat) (t : Timeout) :
    chRead ch max t = .failed ch := by
  simp [chRead, h]

/-- A channel that has failed in a direction still fails under an operation accepted after that (rule R161). -/
theorem begin_failed {ch : Channel} (h : ch.writeFailed = true ∨ ch.readFailed = true) :
    ch.beginSend.writable = false ∧ ch.beginRecv.readable = false := by
  rcases h with h | h <;> simp [Channel.beginSend, Channel.beginRecv, Channel.writable, Channel.readable, h]

/-- A channel that has not failed is not touched by the acceptance of an operation. -/
theorem begin_eq {ch : Channel} (hw : ch.writeFailed = false) (hr : ch.readFailed = false) :
    ch.beginSend = ch ∧ ch.beginRecv = ch := by
  cases ch; simp_all [Channel.beginSend, Channel.beginRecv]

end Sys2Proof.Machine
end

