-- ==== Sys2Proof/Laws/PerInstr.lean ====
section
/-! SUPPORT. Statements made once per instruction of the opcode table, one lemma per constructor. -/

namespace Sys2Proof

/-- How many bits the decoder is given. -/
def Fetched.bits : Fetched → Nat
  | .command _ => 4
  | .frame bytes => 8 * bytes.length

/-- The width the opcode table gives an instruction's row (rules R68, R73). -/
def Instr.tableBits : Instr → Nat
  | .nop => 4
  | .msgNew => 4
  | .msgEq => 4
  | .encode => 4
  | .decode => 4
  | .send => 4
  | .recv => 4
  | .reserved7 => 4
  | .reserved8To15 _ => 4
  | .frameD0 _ => 88
  | .frameD1 _ => 96
  | .frameD2 _ => 104
  | .frameD3 _ => 112
  | .frameD4 _ => 120
  | .frameD5 _ => 128
  | .frameD6 _ => 136
  | .frameD7 _ => 144
  | .frameD8 _ => 152

/-- A well-formed instruction's encoding has the width of its row (rules R61, R68, R73). -/
def Laws.EncodedWidth.Statement (i : Instr) : Prop := i.WellFormed → (encode i).bits = i.tableBits

theorem Laws.EncodedWidth.nop : Laws.EncodedWidth.Statement .nop := fun _ => rfl

theorem Laws.EncodedWidth.msgNew : Laws.EncodedWidth.Statement .msgNew := fun _ => rfl

theorem Laws.EncodedWidth.msgEq : Laws.EncodedWidth.Statement .msgEq := fun _ => rfl

theorem Laws.EncodedWidth.encode : Laws.EncodedWidth.Statement .encode := fun _ => rfl

theorem Laws.EncodedWidth.decode : Laws.EncodedWidth.Statement .decode := fun _ => rfl

theorem Laws.EncodedWidth.send : Laws.EncodedWidth.Statement .send := fun _ => rfl

theorem Laws.EncodedWidth.recv : Laws.EncodedWidth.Statement .recv := fun _ => rfl

theorem Laws.EncodedWidth.reserved7 : Laws.EncodedWidth.Statement .reserved7 := fun _ => rfl

theorem Laws.EncodedWidth.reserved8To15 (r : BitVec 3) : Laws.EncodedWidth.Statement (.reserved8To15 r) := fun _ => rfl

theorem Laws.encodedWidth_frame (f : Frame) (n : Nat) (h : f.wf n = true) : 8 * (encodeFields f).length = 88 + 8 * n := by
  have := encodeFields_length f
  have : f.data.length = n := by simpa [Frame.wf] using h
  omega

theorem Laws.EncodedWidth.frameD0 (f : Frame) : Laws.EncodedWidth.Statement (.frameD0 f) :=
  Laws.encodedWidth_frame f 0

theorem Laws.EncodedWidth.frameD1 (f : Frame) : Laws.EncodedWidth.Statement (.frameD1 f) :=
  Laws.encodedWidth_frame f 1

theorem Laws.EncodedWidth.frameD2 (f : Frame) : Laws.EncodedWidth.Statement (.frameD2 f) :=
  Laws.encodedWidth_frame f 2

theorem Laws.EncodedWidth.frameD3 (f : Frame) : Laws.EncodedWidth.Statement (.frameD3 f) :=
  Laws.encodedWidth_frame f 3

theorem Laws.EncodedWidth.frameD4 (f : Frame) : Laws.EncodedWidth.Statement (.frameD4 f) :=
  Laws.encodedWidth_frame f 4

theorem Laws.EncodedWidth.frameD5 (f : Frame) : Laws.EncodedWidth.Statement (.frameD5 f) :=
  Laws.encodedWidth_frame f 5

theorem Laws.EncodedWidth.frameD6 (f : Frame) : Laws.EncodedWidth.Statement (.frameD6 f) :=
  Laws.encodedWidth_frame f 6

theorem Laws.EncodedWidth.frameD7 (f : Frame) : Laws.EncodedWidth.Statement (.frameD7 f) :=
  Laws.encodedWidth_frame f 7

theorem Laws.EncodedWidth.frameD8 (f : Frame) : Laws.EncodedWidth.Statement (.frameD8 f) :=
  Laws.encodedWidth_frame f 8

end Sys2Proof
end

