-- ==== Sys2Proof/Laws/State.lean ====
section
/-! SUPPORT. What each named update of State does to each field: one lemma per field per update. -/

namespace Sys2Proof.Machine


section rxAppend
variable (bs : List Byte) (s : State)

@[simp] theorem rxAppend_rxbuf : (s.rxAppend bs).rxbuf = s.rxbuf ++ bs := rfl
@[simp] theorem rxAppend_sp : (s.rxAppend bs).sp = s.sp := rfl
@[simp] theorem rxAppend_fsm : (s.rxAppend bs).fsm = s.fsm := rfl
@[simp] theorem rxAppend_broken : (s.rxAppend bs).broken = s.broken := rfl
@[simp] theorem rxAppend_cmd : (s.rxAppend bs).cmd = s.cmd := rfl
@[simp] theorem rxAppend_cmdIssued : (s.rxAppend bs).cmdIssued = s.cmdIssued := rfl
@[simp] theorem rxAppend_msgIn : (s.rxAppend bs).msgIn = s.msgIn := rfl
@[simp] theorem rxAppend_msgIn2 : (s.rxAppend bs).msgIn2 = s.msgIn2 := rfl
@[simp] theorem rxAppend_timeout : (s.rxAppend bs).timeout = s.timeout := rfl
@[simp] theorem rxAppend_decIn : (s.rxAppend bs).decIn = s.decIn := rfl
@[simp] theorem rxAppend_status : (s.rxAppend bs).status = s.status := rfl
@[simp] theorem rxAppend_errTag : (s.rxAppend bs).errTag = s.errTag := rfl
@[simp] theorem rxAppend_msgOut : (s.rxAppend bs).msgOut = s.msgOut := rfl
@[simp] theorem rxAppend_frameOut : (s.rxAppend bs).frameOut = s.frameOut := rfl
@[simp] theorem rxAppend_eqOut : (s.rxAppend bs).eqOut = s.eqOut := rfl
@[simp] theorem rxAppend_decOut : (s.rxAppend bs).decOut = s.decOut := rfl
@[simp] theorem rxAppend_txStatus : (s.rxAppend bs).txStatus = s.txStatus := rfl
@[simp] theorem rxAppend_txErrTag : (s.rxAppend bs).txErrTag = s.txErrTag := rfl
@[simp] theorem rxAppend_rxStatus : (s.rxAppend bs).rxStatus = s.rxStatus := rfl
@[simp] theorem rxAppend_rxMsgOut : (s.rxAppend bs).rxMsgOut = s.rxMsgOut := rfl
@[simp] theorem rxAppend_txframe : (s.rxAppend bs).txframe = s.txframe := rfl
@[simp] theorem rxAppend_txoff : (s.rxAppend bs).txoff = s.txoff := rfl
@[simp] theorem rxAppend_txBusy : (s.rxAppend bs).txBusy = s.txBusy := rfl
@[simp] theorem rxAppend_expired : (s.rxAppend bs).expired = s.expired := rfl
@[simp] theorem rxAppend_rxBusy : (s.rxAppend bs).rxBusy = s.rxBusy := rfl
@[simp] theorem rxAppend_rxTimeout : (s.rxAppend bs).rxTimeout = s.rxTimeout := rfl
@[simp] theorem rxAppend_chan : (s.rxAppend bs).chan = s.chan := rfl
@[simp] theorem rxAppend_inputs : (s.rxAppend bs).inputs = s.inputs := rfl
@[simp] theorem rxAppend_build : (s.rxAppend bs).build = s.build := rfl
@[simp] theorem rxAppend_free : (s.rxAppend bs).free = s.free := rfl

end rxAppend

section rxDrop
variable (k : Nat) (s : State)

@[simp] theorem rxDrop_rxbuf : (s.rxDrop k).rxbuf = s.rxbuf.drop k := rfl
@[simp] theorem rxDrop_sp : (s.rxDrop k).sp = 0 := rfl
@[simp] theorem rxDrop_fsm : (s.rxDrop k).fsm = s.fsm := rfl
@[simp] theorem rxDrop_broken : (s.rxDrop k).broken = s.broken := rfl
@[simp] theorem rxDrop_cmd : (s.rxDrop k).cmd = s.cmd := rfl
@[simp] theorem rxDrop_cmdIssued : (s.rxDrop k).cmdIssued = s.cmdIssued := rfl
@[simp] theorem rxDrop_msgIn : (s.rxDrop k).msgIn = s.msgIn := rfl
@[simp] theorem rxDrop_msgIn2 : (s.rxDrop k).msgIn2 = s.msgIn2 := rfl
@[simp] theorem rxDrop_timeout : (s.rxDrop k).timeout = s.timeout := rfl
@[simp] theorem rxDrop_decIn : (s.rxDrop k).decIn = s.decIn := rfl
@[simp] theorem rxDrop_status : (s.rxDrop k).status = s.status := rfl
@[simp] theorem rxDrop_errTag : (s.rxDrop k).errTag = s.errTag := rfl
@[simp] theorem rxDrop_msgOut : (s.rxDrop k).msgOut = s.msgOut := rfl
@[simp] theorem rxDrop_frameOut : (s.rxDrop k).frameOut = s.frameOut := rfl
@[simp] theorem rxDrop_eqOut : (s.rxDrop k).eqOut = s.eqOut := rfl
@[simp] theorem rxDrop_decOut : (s.rxDrop k).decOut = s.decOut := rfl
@[simp] theorem rxDrop_txStatus : (s.rxDrop k).txStatus = s.txStatus := rfl
@[simp] theorem rxDrop_txErrTag : (s.rxDrop k).txErrTag = s.txErrTag := rfl
@[simp] theorem rxDrop_rxStatus : (s.rxDrop k).rxStatus = s.rxStatus := rfl
@[simp] theorem rxDrop_rxMsgOut : (s.rxDrop k).rxMsgOut = s.rxMsgOut := rfl
@[simp] theorem rxDrop_txframe : (s.rxDrop k).txframe = s.txframe := rfl
@[simp] theorem rxDrop_txoff : (s.rxDrop k).txoff = s.txoff := rfl
@[simp] theorem rxDrop_txBusy : (s.rxDrop k).txBusy = s.txBusy := rfl
@[simp] theorem rxDrop_expired : (s.rxDrop k).expired = s.expired := rfl
@[simp] theorem rxDrop_rxBusy : (s.rxDrop k).rxBusy = s.rxBusy := rfl
@[simp] theorem rxDrop_rxTimeout : (s.rxDrop k).rxTimeout = s.rxTimeout := rfl
@[simp] theorem rxDrop_chan : (s.rxDrop k).chan = s.chan := rfl
@[simp] theorem rxDrop_inputs : (s.rxDrop k).inputs = s.inputs := rfl
@[simp] theorem rxDrop_build : (s.rxDrop k).build = s.build := rfl
@[simp] theorem rxDrop_free : (s.rxDrop k).free = s.free := rfl

end rxDrop

section endOp_host
variable (st : Status) (tag : Option RangeTag) (s : State)

@[simp] theorem endOp_host_rxbuf : (s.endOp .host st tag).rxbuf = s.rxbuf := rfl
@[simp] theorem endOp_host_sp : (s.endOp .host st tag).sp = s.sp := rfl
@[simp] theorem endOp_host_fsm : (s.endOp .host st tag).fsm = s.fsm := rfl
@[simp] theorem endOp_host_broken : (s.endOp .host st tag).broken = s.broken := rfl
@[simp] theorem endOp_host_cmd : (s.endOp .host st tag).cmd = s.cmd := rfl
@[simp] theorem endOp_host_cmdIssued : (s.endOp .host st tag).cmdIssued = s.cmdIssued := rfl
@[simp] theorem endOp_host_msgIn : (s.endOp .host st tag).msgIn = s.msgIn := rfl
@[simp] theorem endOp_host_msgIn2 : (s.endOp .host st tag).msgIn2 = s.msgIn2 := rfl
@[simp] theorem endOp_host_timeout : (s.endOp .host st tag).timeout = s.timeout := rfl
@[simp] theorem endOp_host_decIn : (s.endOp .host st tag).decIn = s.decIn := rfl
@[simp] theorem endOp_host_status : (s.endOp .host st tag).status = st.code := rfl
@[simp] theorem endOp_host_errTag : (s.endOp .host st tag).errTag = tagCode tag := rfl
@[simp] theorem endOp_host_msgOut : (s.endOp .host st tag).msgOut = s.msgOut := rfl
@[simp] theorem endOp_host_frameOut : (s.endOp .host st tag).frameOut = s.frameOut := rfl
@[simp] theorem endOp_host_eqOut : (s.endOp .host st tag).eqOut = s.eqOut := rfl
@[simp] theorem endOp_host_decOut : (s.endOp .host st tag).decOut = s.decOut := rfl
@[simp] theorem endOp_host_txStatus : (s.endOp .host st tag).txStatus = s.txStatus := rfl
@[simp] theorem endOp_host_txErrTag : (s.endOp .host st tag).txErrTag = s.txErrTag := rfl
@[simp] theorem endOp_host_rxStatus : (s.endOp .host st tag).rxStatus = s.rxStatus := rfl
@[simp] theorem endOp_host_rxMsgOut : (s.endOp .host st tag).rxMsgOut = s.rxMsgOut := rfl
@[simp] theorem endOp_host_txframe : (s.endOp .host st tag).txframe = s.txframe := rfl
@[simp] theorem endOp_host_txoff : (s.endOp .host st tag).txoff = s.txoff := rfl
@[simp] theorem endOp_host_txBusy : (s.endOp .host st tag).txBusy = s.txBusy := rfl
@[simp] theorem endOp_host_expired : (s.endOp .host st tag).expired = s.expired := rfl
@[simp] theorem endOp_host_rxBusy : (s.endOp .host st tag).rxBusy = s.rxBusy := rfl
@[simp] theorem endOp_host_rxTimeout : (s.endOp .host st tag).rxTimeout = s.rxTimeout := rfl
@[simp] theorem endOp_host_chan : (s.endOp .host st tag).chan = s.chan := rfl
@[simp] theorem endOp_host_inputs : (s.endOp .host st tag).inputs = s.inputs := rfl
@[simp] theorem endOp_host_build : (s.endOp .host st tag).build = s.build := rfl
@[simp] theorem endOp_host_free : (s.endOp .host st tag).free = s.free := rfl

end endOp_host

section endOp_tx
variable (st : Status) (tag : Option RangeTag) (s : State)

@[simp] theorem endOp_tx_rxbuf : (s.endOp .tx st tag).rxbuf = s.rxbuf := rfl
@[simp] theorem endOp_tx_sp : (s.endOp .tx st tag).sp = s.sp := rfl
@[simp] theorem endOp_tx_fsm : (s.endOp .tx st tag).fsm = s.fsm := rfl
@[simp] theorem endOp_tx_broken : (s.endOp .tx st tag).broken = s.broken := rfl
@[simp] theorem endOp_tx_cmd : (s.endOp .tx st tag).cmd = s.cmd := rfl
@[simp] theorem endOp_tx_cmdIssued : (s.endOp .tx st tag).cmdIssued = s.cmdIssued := rfl
@[simp] theorem endOp_tx_msgIn : (s.endOp .tx st tag).msgIn = s.msgIn := rfl
@[simp] theorem endOp_tx_msgIn2 : (s.endOp .tx st tag).msgIn2 = s.msgIn2 := rfl
@[simp] theorem endOp_tx_timeout : (s.endOp .tx st tag).timeout = s.timeout := rfl
@[simp] theorem endOp_tx_decIn : (s.endOp .tx st tag).decIn = s.decIn := rfl
@[simp] theorem endOp_tx_status : (s.endOp .tx st tag).status = s.status := rfl
@[simp] theorem endOp_tx_errTag : (s.endOp .tx st tag).errTag = s.errTag := rfl
@[simp] theorem endOp_tx_msgOut : (s.endOp .tx st tag).msgOut = s.msgOut := rfl
@[simp] theorem endOp_tx_frameOut : (s.endOp .tx st tag).frameOut = s.frameOut := rfl
@[simp] theorem endOp_tx_eqOut : (s.endOp .tx st tag).eqOut = s.eqOut := rfl
@[simp] theorem endOp_tx_decOut : (s.endOp .tx st tag).decOut = s.decOut := rfl
@[simp] theorem endOp_tx_txStatus : (s.endOp .tx st tag).txStatus = st.code := rfl
@[simp] theorem endOp_tx_txErrTag : (s.endOp .tx st tag).txErrTag = tagCode tag := rfl
@[simp] theorem endOp_tx_rxStatus : (s.endOp .tx st tag).rxStatus = s.rxStatus := rfl
@[simp] theorem endOp_tx_rxMsgOut : (s.endOp .tx st tag).rxMsgOut = s.rxMsgOut := rfl
@[simp] theorem endOp_tx_txframe : (s.endOp .tx st tag).txframe = s.txframe := rfl
@[simp] theorem endOp_tx_txoff : (s.endOp .tx st tag).txoff = s.txoff := rfl
@[simp] theorem endOp_tx_txBusy : (s.endOp .tx st tag).txBusy = s.txBusy := rfl
@[simp] theorem endOp_tx_expired : (s.endOp .tx st tag).expired = s.expired := rfl
@[simp] theorem endOp_tx_rxBusy : (s.endOp .tx st tag).rxBusy = s.rxBusy := rfl
@[simp] theorem endOp_tx_rxTimeout : (s.endOp .tx st tag).rxTimeout = s.rxTimeout := rfl
@[simp] theorem endOp_tx_chan : (s.endOp .tx st tag).chan = s.chan := rfl
@[simp] theorem endOp_tx_inputs : (s.endOp .tx st tag).inputs = s.inputs := rfl
@[simp] theorem endOp_tx_build : (s.endOp .tx st tag).build = s.build := rfl
@[simp] theorem endOp_tx_free : (s.endOp .tx st tag).free = s.free := rfl

end endOp_tx

section endOp_rx
variable (st : Status) (tag : Option RangeTag) (s : State)

@[simp] theorem endOp_rx_rxbuf : (s.endOp .rx st tag).rxbuf = s.rxbuf := rfl
@[simp] theorem endOp_rx_sp : (s.endOp .rx st tag).sp = s.sp := rfl
@[simp] theorem endOp_rx_fsm : (s.endOp .rx st tag).fsm = s.fsm := rfl
@[simp] theorem endOp_rx_broken : (s.endOp .rx st tag).broken = s.broken := rfl
@[simp] theorem endOp_rx_cmd : (s.endOp .rx st tag).cmd = s.cmd := rfl
@[simp] theorem endOp_rx_cmdIssued : (s.endOp .rx st tag).cmdIssued = s.cmdIssued := rfl
@[simp] theorem endOp_rx_msgIn : (s.endOp .rx st tag).msgIn = s.msgIn := rfl
@[simp] theorem endOp_rx_msgIn2 : (s.endOp .rx st tag).msgIn2 = s.msgIn2 := rfl
@[simp] theorem endOp_rx_timeout : (s.endOp .rx st tag).timeout = s.timeout := rfl
@[simp] theorem endOp_rx_decIn : (s.endOp .rx st tag).decIn = s.decIn := rfl
@[simp] theorem endOp_rx_status : (s.endOp .rx st tag).status = s.status := rfl
@[simp] theorem endOp_rx_errTag : (s.endOp .rx st tag).errTag = s.errTag := rfl
@[simp] theorem endOp_rx_msgOut : (s.endOp .rx st tag).msgOut = s.msgOut := rfl
@[simp] theorem endOp_rx_frameOut : (s.endOp .rx st tag).frameOut = s.frameOut := rfl
@[simp] theorem endOp_rx_eqOut : (s.endOp .rx st tag).eqOut = s.eqOut := rfl
@[simp] theorem endOp_rx_decOut : (s.endOp .rx st tag).decOut = s.decOut := rfl
@[simp] theorem endOp_rx_txStatus : (s.endOp .rx st tag).txStatus = s.txStatus := rfl
@[simp] theorem endOp_rx_txErrTag : (s.endOp .rx st tag).txErrTag = s.txErrTag := rfl
@[simp] theorem endOp_rx_rxStatus : (s.endOp .rx st tag).rxStatus = st.code := rfl
@[simp] theorem endOp_rx_rxMsgOut : (s.endOp .rx st tag).rxMsgOut = s.rxMsgOut := rfl
@[simp] theorem endOp_rx_txframe : (s.endOp .rx st tag).txframe = s.txframe := rfl
@[simp] theorem endOp_rx_txoff : (s.endOp .rx st tag).txoff = s.txoff := rfl
@[simp] theorem endOp_rx_txBusy : (s.endOp .rx st tag).txBusy = s.txBusy := rfl
@[simp] theorem endOp_rx_expired : (s.endOp .rx st tag).expired = s.expired := rfl
@[simp] theorem endOp_rx_rxBusy : (s.endOp .rx st tag).rxBusy = s.rxBusy := rfl
@[simp] theorem endOp_rx_rxTimeout : (s.endOp .rx st tag).rxTimeout = s.rxTimeout := rfl
@[simp] theorem endOp_rx_chan : (s.endOp .rx st tag).chan = s.chan := rfl
@[simp] theorem endOp_rx_inputs : (s.endOp .rx st tag).inputs = s.inputs := rfl
@[simp] theorem endOp_rx_build : (s.endOp .rx st tag).build = s.build := rfl
@[simp] theorem endOp_rx_free : (s.endOp .rx st tag).free = s.free := rfl

end endOp_rx

section refuse_host
variable (s : State)

@[simp] theorem refuse_host_rxbuf : (s.refuse .host).rxbuf = s.rxbuf := rfl
@[simp] theorem refuse_host_sp : (s.refuse .host).sp = s.sp := rfl
@[simp] theorem refuse_host_fsm : (s.refuse .host).fsm = s.fsm := rfl
@[simp] theorem refuse_host_broken : (s.refuse .host).broken = s.broken := rfl
@[simp] theorem refuse_host_cmd : (s.refuse .host).cmd = s.cmd := rfl
@[simp] theorem refuse_host_cmdIssued : (s.refuse .host).cmdIssued = s.cmdIssued := rfl
@[simp] theorem refuse_host_msgIn : (s.refuse .host).msgIn = s.msgIn := rfl
@[simp] theorem refuse_host_msgIn2 : (s.refuse .host).msgIn2 = s.msgIn2 := rfl
@[simp] theorem refuse_host_timeout : (s.refuse .host).timeout = s.timeout := rfl
@[simp] theorem refuse_host_decIn : (s.refuse .host).decIn = s.decIn := rfl
@[simp] theorem refuse_host_status : (s.refuse .host).status = Status.refused.code := rfl
@[simp] theorem refuse_host_errTag : (s.refuse .host).errTag = s.errTag := rfl
@[simp] theorem refuse_host_msgOut : (s.refuse .host).msgOut = s.msgOut := rfl
@[simp] theorem refuse_host_frameOut : (s.refuse .host).frameOut = s.frameOut := rfl
@[simp] theorem refuse_host_eqOut : (s.refuse .host).eqOut = s.eqOut := rfl
@[simp] theorem refuse_host_decOut : (s.refuse .host).decOut = s.decOut := rfl
@[simp] theorem refuse_host_txStatus : (s.refuse .host).txStatus = s.txStatus := rfl
@[simp] theorem refuse_host_txErrTag : (s.refuse .host).txErrTag = s.txErrTag := rfl
@[simp] theorem refuse_host_rxStatus : (s.refuse .host).rxStatus = s.rxStatus := rfl
@[simp] theorem refuse_host_rxMsgOut : (s.refuse .host).rxMsgOut = s.rxMsgOut := rfl
@[simp] theorem refuse_host_txframe : (s.refuse .host).txframe = s.txframe := rfl
@[simp] theorem refuse_host_txoff : (s.refuse .host).txoff = s.txoff := rfl
@[simp] theorem refuse_host_txBusy : (s.refuse .host).txBusy = s.txBusy := rfl
@[simp] theorem refuse_host_expired : (s.refuse .host).expired = s.expired := rfl
@[simp] theorem refuse_host_rxBusy : (s.refuse .host).rxBusy = s.rxBusy := rfl
@[simp] theorem refuse_host_rxTimeout : (s.refuse .host).rxTimeout = s.rxTimeout := rfl
@[simp] theorem refuse_host_chan : (s.refuse .host).chan = s.chan := rfl
@[simp] theorem refuse_host_inputs : (s.refuse .host).inputs = s.inputs := rfl
@[simp] theorem refuse_host_build : (s.refuse .host).build = s.build := rfl
@[simp] theorem refuse_host_free : (s.refuse .host).free = s.free := rfl

end refuse_host

section refuse_tx
variable (s : State)

@[simp] theorem refuse_tx_rxbuf : (s.refuse .tx).rxbuf = s.rxbuf := rfl
@[simp] theorem refuse_tx_sp : (s.refuse .tx).sp = s.sp := rfl
@[simp] theorem refuse_tx_fsm : (s.refuse .tx).fsm = s.fsm := rfl
@[simp] theorem refuse_tx_broken : (s.refuse .tx).broken = s.broken := rfl
@[simp] theorem refuse_tx_cmd : (s.refuse .tx).cmd = s.cmd := rfl
@[simp] theorem refuse_tx_cmdIssued : (s.refuse .tx).cmdIssued = s.cmdIssued := rfl
@[simp] theorem refuse_tx_msgIn : (s.refuse .tx).msgIn = s.msgIn := rfl
@[simp] theorem refuse_tx_msgIn2 : (s.refuse .tx).msgIn2 = s.msgIn2 := rfl
@[simp] theorem refuse_tx_timeout : (s.refuse .tx).timeout = s.timeout := rfl
@[simp] theorem refuse_tx_decIn : (s.refuse .tx).decIn = s.decIn := rfl
@[simp] theorem refuse_tx_status : (s.refuse .tx).status = s.status := rfl
@[simp] theorem refuse_tx_errTag : (s.refuse .tx).errTag = s.errTag := rfl
@[simp] theorem refuse_tx_msgOut : (s.refuse .tx).msgOut = s.msgOut := rfl
@[simp] theorem refuse_tx_frameOut : (s.refuse .tx).frameOut = s.frameOut := rfl
@[simp] theorem refuse_tx_eqOut : (s.refuse .tx).eqOut = s.eqOut := rfl
@[simp] theorem refuse_tx_decOut : (s.refuse .tx).decOut = s.decOut := rfl
@[simp] theorem refuse_tx_txStatus : (s.refuse .tx).txStatus = Status.refused.code := rfl
@[simp] theorem refuse_tx_txErrTag : (s.refuse .tx).txErrTag = s.txErrTag := rfl
@[simp] theorem refuse_tx_rxStatus : (s.refuse .tx).rxStatus = s.rxStatus := rfl
@[simp] theorem refuse_tx_rxMsgOut : (s.refuse .tx).rxMsgOut = s.rxMsgOut := rfl
@[simp] theorem refuse_tx_txframe : (s.refuse .tx).txframe = s.txframe := rfl
@[simp] theorem refuse_tx_txoff : (s.refuse .tx).txoff = s.txoff := rfl
@[simp] theorem refuse_tx_txBusy : (s.refuse .tx).txBusy = s.txBusy := rfl
@[simp] theorem refuse_tx_expired : (s.refuse .tx).expired = s.expired := rfl
@[simp] theorem refuse_tx_rxBusy : (s.refuse .tx).rxBusy = s.rxBusy := rfl
@[simp] theorem refuse_tx_rxTimeout : (s.refuse .tx).rxTimeout = s.rxTimeout := rfl
@[simp] theorem refuse_tx_chan : (s.refuse .tx).chan = s.chan := rfl
@[simp] theorem refuse_tx_inputs : (s.refuse .tx).inputs = s.inputs := rfl
@[simp] theorem refuse_tx_build : (s.refuse .tx).build = s.build := rfl
@[simp] theorem refuse_tx_free : (s.refuse .tx).free = s.free := rfl

end refuse_tx

section refuse_rx
variable (s : State)

@[simp] theorem refuse_rx_rxbuf : (s.refuse .rx).rxbuf = s.rxbuf := rfl
@[simp] theorem refuse_rx_sp : (s.refuse .rx).sp = s.sp := rfl
@[simp] theorem refuse_rx_fsm : (s.refuse .rx).fsm = s.fsm := rfl
@[simp] theorem refuse_rx_broken : (s.refuse .rx).broken = s.broken := rfl
@[simp] theorem refuse_rx_cmd : (s.refuse .rx).cmd = s.cmd := rfl
@[simp] theorem refuse_rx_cmdIssued : (s.refuse .rx).cmdIssued = s.cmdIssued := rfl
@[simp] theorem refuse_rx_msgIn : (s.refuse .rx).msgIn = s.msgIn := rfl
@[simp] theorem refuse_rx_msgIn2 : (s.refuse .rx).msgIn2 = s.msgIn2 := rfl
@[simp] theorem refuse_rx_timeout : (s.refuse .rx).timeout = s.timeout := rfl
@[simp] theorem refuse_rx_decIn : (s.refuse .rx).decIn = s.decIn := rfl
@[simp] theorem refuse_rx_status : (s.refuse .rx).status = s.status := rfl
@[simp] theorem refuse_rx_errTag : (s.refuse .rx).errTag = s.errTag := rfl
@[simp] theorem refuse_rx_msgOut : (s.refuse .rx).msgOut = s.msgOut := rfl
@[simp] theorem refuse_rx_frameOut : (s.refuse .rx).frameOut = s.frameOut := rfl
@[simp] theorem refuse_rx_eqOut : (s.refuse .rx).eqOut = s.eqOut := rfl
@[simp] theorem refuse_rx_decOut : (s.refuse .rx).decOut = s.decOut := rfl
@[simp] theorem refuse_rx_txStatus : (s.refuse .rx).txStatus = s.txStatus := rfl
@[simp] theorem refuse_rx_txErrTag : (s.refuse .rx).txErrTag = s.txErrTag := rfl
@[simp] theorem refuse_rx_rxStatus : (s.refuse .rx).rxStatus = Status.refused.code := rfl
@[simp] theorem refuse_rx_rxMsgOut : (s.refuse .rx).rxMsgOut = s.rxMsgOut := rfl
@[simp] theorem refuse_rx_txframe : (s.refuse .rx).txframe = s.txframe := rfl
@[simp] theorem refuse_rx_txoff : (s.refuse .rx).txoff = s.txoff := rfl
@[simp] theorem refuse_rx_txBusy : (s.refuse .rx).txBusy = s.txBusy := rfl
@[simp] theorem refuse_rx_expired : (s.refuse .rx).expired = s.expired := rfl
@[simp] theorem refuse_rx_rxBusy : (s.refuse .rx).rxBusy = s.rxBusy := rfl
@[simp] theorem refuse_rx_rxTimeout : (s.refuse .rx).rxTimeout = s.rxTimeout := rfl
@[simp] theorem refuse_rx_chan : (s.refuse .rx).chan = s.chan := rfl
@[simp] theorem refuse_rx_inputs : (s.refuse .rx).inputs = s.inputs := rfl
@[simp] theorem refuse_rx_build : (s.refuse .rx).build = s.build := rfl
@[simp] theorem refuse_rx_free : (s.refuse .rx).free = s.free := rfl

end refuse_rx

section breakChannel
variable (ch : Channel) (s : State)

@[simp] theorem breakChannel_rxbuf : (s.breakChannel ch).rxbuf = s.rxbuf := rfl
@[simp] theorem breakChannel_sp : (s.breakChannel ch).sp = s.sp := rfl
@[simp] theorem breakChannel_fsm : (s.breakChannel ch).fsm = s.fsm := rfl
@[simp] theorem breakChannel_broken : (s.breakChannel ch).broken = true := rfl
@[simp] theorem breakChannel_cmd : (s.breakChannel ch).cmd = s.cmd := rfl
@[simp] theorem breakChannel_cmdIssued : (s.breakChannel ch).cmdIssued = s.cmdIssued := rfl
@[simp] theorem breakChannel_msgIn : (s.breakChannel ch).msgIn = s.msgIn := rfl
@[simp] theorem breakChannel_msgIn2 : (s.breakChannel ch).msgIn2 = s.msgIn2 := rfl
@[simp] theorem breakChannel_timeout : (s.breakChannel ch).timeout = s.timeout := rfl
@[simp] theorem breakChannel_decIn : (s.breakChannel ch).decIn = s.decIn := rfl
@[simp] theorem breakChannel_status : (s.breakChannel ch).status = s.status := rfl
@[simp] theorem breakChannel_errTag : (s.breakChannel ch).errTag = s.errTag := rfl
@[simp] theorem breakChannel_msgOut : (s.breakChannel ch).msgOut = s.msgOut := rfl
@[simp] theorem breakChannel_frameOut : (s.breakChannel ch).frameOut = s.frameOut := rfl
@[simp] theorem breakChannel_eqOut : (s.breakChannel ch).eqOut = s.eqOut := rfl
@[simp] theorem breakChannel_decOut : (s.breakChannel ch).decOut = s.decOut := rfl
@[simp] theorem breakChannel_txStatus : (s.breakChannel ch).txStatus = s.txStatus := rfl
@[simp] theorem breakChannel_txErrTag : (s.breakChannel ch).txErrTag = s.txErrTag := rfl
@[simp] theorem breakChannel_rxStatus : (s.breakChannel ch).rxStatus = s.rxStatus := rfl
@[simp] theorem breakChannel_rxMsgOut : (s.breakChannel ch).rxMsgOut = s.rxMsgOut := rfl
@[simp] theorem breakChannel_txframe : (s.breakChannel ch).txframe = s.txframe := rfl
@[simp] theorem breakChannel_txoff : (s.breakChannel ch).txoff = s.txoff := rfl
@[simp] theorem breakChannel_txBusy : (s.breakChannel ch).txBusy = s.txBusy := rfl
@[simp] theorem breakChannel_expired : (s.breakChannel ch).expired = s.expired := rfl
@[simp] theorem breakChannel_rxBusy : (s.breakChannel ch).rxBusy = s.rxBusy := rfl
@[simp] theorem breakChannel_rxTimeout : (s.breakChannel ch).rxTimeout = s.rxTimeout := rfl
@[simp] theorem breakChannel_chan : (s.breakChannel ch).chan = ch := rfl
@[simp] theorem breakChannel_inputs : (s.breakChannel ch).inputs = s.inputs := rfl
@[simp] theorem breakChannel_build : (s.breakChannel ch).build = s.build := rfl
@[simp] theorem breakChannel_free : (s.breakChannel ch).free = s.free := rfl

end breakChannel

section sendDone
variable (s : State)

@[simp] theorem sendDone_rxbuf : (sendDone s).rxbuf = s.rxbuf := rfl
@[simp] theorem sendDone_sp : (sendDone s).sp = s.sp := rfl
@[simp] theorem sendDone_fsm : (sendDone s).fsm = s.fsm := rfl
@[simp] theorem sendDone_broken : (sendDone s).broken = s.broken := rfl
@[simp] theorem sendDone_cmd : (sendDone s).cmd = s.cmd := rfl
@[simp] theorem sendDone_cmdIssued : (sendDone s).cmdIssued = s.cmdIssued := rfl
@[simp] theorem sendDone_msgIn : (sendDone s).msgIn = s.msgIn := rfl
@[simp] theorem sendDone_msgIn2 : (sendDone s).msgIn2 = s.msgIn2 := rfl
@[simp] theorem sendDone_timeout : (sendDone s).timeout = s.timeout := rfl
@[simp] theorem sendDone_decIn : (sendDone s).decIn = s.decIn := rfl
@[simp] theorem sendDone_status : (sendDone s).status = s.status := rfl
@[simp] theorem sendDone_errTag : (sendDone s).errTag = s.errTag := rfl
@[simp] theorem sendDone_msgOut : (sendDone s).msgOut = s.msgOut := rfl
@[simp] theorem sendDone_frameOut : (sendDone s).frameOut = s.frameOut := rfl
@[simp] theorem sendDone_eqOut : (sendDone s).eqOut = s.eqOut := rfl
@[simp] theorem sendDone_decOut : (sendDone s).decOut = s.decOut := rfl
@[simp] theorem sendDone_txStatus : (sendDone s).txStatus = Status.ok.code := rfl
@[simp] theorem sendDone_txErrTag : (sendDone s).txErrTag = 0 := rfl
@[simp] theorem sendDone_rxStatus : (sendDone s).rxStatus = s.rxStatus := rfl
@[simp] theorem sendDone_rxMsgOut : (sendDone s).rxMsgOut = s.rxMsgOut := rfl
@[simp] theorem sendDone_txframe : (sendDone s).txframe = s.txframe := rfl
@[simp] theorem sendDone_txoff : (sendDone s).txoff = s.txoff := rfl
@[simp] theorem sendDone_txBusy : (sendDone s).txBusy = false := rfl
@[simp] theorem sendDone_expired : (sendDone s).expired = s.expired := rfl
@[simp] theorem sendDone_rxBusy : (sendDone s).rxBusy = s.rxBusy := rfl
@[simp] theorem sendDone_rxTimeout : (sendDone s).rxTimeout = s.rxTimeout := rfl
@[simp] theorem sendDone_chan : (sendDone s).chan = s.chan := rfl
@[simp] theorem sendDone_inputs : (sendDone s).inputs = s.inputs := rfl
@[simp] theorem sendDone_build : (sendDone s).build = s.build := rfl
@[simp] theorem sendDone_free : (sendDone s).free = s.free := rfl

end sendDone

section deliver
variable (n : Nat) (f : Frame) (s : State)

@[simp] theorem deliver_rxbuf : (deliver n f s).rxbuf = s.rxbuf.drop (s.sp + Config.fixedLen + n) := rfl
@[simp] theorem deliver_sp : (deliver n f s).sp = 0 := rfl
@[simp] theorem deliver_fsm : (deliver n f s).fsm = .idle := rfl
@[simp] theorem deliver_broken : (deliver n f s).broken = s.broken := rfl
@[simp] theorem deliver_cmd : (deliver n f s).cmd = s.cmd := rfl
@[simp] theorem deliver_cmdIssued : (deliver n f s).cmdIssued = s.cmdIssued := rfl
@[simp] theorem deliver_msgIn : (deliver n f s).msgIn = s.msgIn := rfl
@[simp] theorem deliver_msgIn2 : (deliver n f s).msgIn2 = s.msgIn2 := rfl
@[simp] theorem deliver_timeout : (deliver n f s).timeout = s.timeout := rfl
@[simp] theorem deliver_decIn : (deliver n f s).decIn = s.decIn := rfl
@[simp] theorem deliver_status : (deliver n f s).status = s.status := rfl
@[simp] theorem deliver_errTag : (deliver n f s).errTag = s.errTag := rfl
@[simp] theorem deliver_msgOut : (deliver n f s).msgOut = s.msgOut := rfl
@[simp] theorem deliver_frameOut : (deliver n f s).frameOut = s.frameOut := rfl
@[simp] theorem deliver_eqOut : (deliver n f s).eqOut = s.eqOut := rfl
@[simp] theorem deliver_decOut : (deliver n f s).decOut = s.decOut := rfl
@[simp] theorem deliver_txStatus : (deliver n f s).txStatus = s.txStatus := rfl
@[simp] theorem deliver_txErrTag : (deliver n f s).txErrTag = s.txErrTag := rfl
@[simp] theorem deliver_rxStatus : (deliver n f s).rxStatus = Status.message.code := rfl
@[simp] theorem deliver_rxMsgOut : (deliver n f s).rxMsgOut = .ofFrame (Config.freeByte s.free) f := rfl
@[simp] theorem deliver_txframe : (deliver n f s).txframe = s.txframe := rfl
@[simp] theorem deliver_txoff : (deliver n f s).txoff = s.txoff := rfl
@[simp] theorem deliver_txBusy : (deliver n f s).txBusy = s.txBusy := rfl
@[simp] theorem deliver_expired : (deliver n f s).expired = s.expired := rfl
@[simp] theorem deliver_rxBusy : (deliver n f s).rxBusy = false := rfl
@[simp] theorem deliver_rxTimeout : (deliver n f s).rxTimeout = s.rxTimeout := rfl
@[simp] theorem deliver_chan : (deliver n f s).chan = s.chan := rfl
@[simp] theorem deliver_inputs : (deliver n f s).inputs = s.inputs := rfl
@[simp] theorem deliver_build : (deliver n f s).build = s.build := rfl
@[simp] theorem deliver_free : (deliver n f s).free = s.free + 1 := rfl

end deliver

section resetBlock
variable (s : State)

@[simp] theorem resetBlock_rxbuf : (s.resetBlock).rxbuf = State.reset.rxbuf := rfl
@[simp] theorem resetBlock_sp : (s.resetBlock).sp = State.reset.sp := rfl
@[simp] theorem resetBlock_fsm : (s.resetBlock).fsm = State.reset.fsm := rfl
@[simp] theorem resetBlock_broken : (s.resetBlock).broken = State.reset.broken := rfl
@[simp] theorem resetBlock_cmd : (s.resetBlock).cmd = State.reset.cmd := rfl
@[simp] theorem resetBlock_cmdIssued : (s.resetBlock).cmdIssued = State.reset.cmdIssued := rfl
@[simp] theorem resetBlock_msgIn : (s.resetBlock).msgIn = State.reset.msgIn := rfl
@[simp] theorem resetBlock_msgIn2 : (s.resetBlock).msgIn2 = State.reset.msgIn2 := rfl
@[simp] theorem resetBlock_timeout : (s.resetBlock).timeout = State.reset.timeout := rfl
@[simp] theorem resetBlock_decIn : (s.resetBlock).decIn = State.reset.decIn := rfl
@[simp] theorem resetBlock_status : (s.resetBlock).status = State.reset.status := rfl
@[simp] theorem resetBlock_errTag : (s.resetBlock).errTag = State.reset.errTag := rfl
@[simp] theorem resetBlock_msgOut : (s.resetBlock).msgOut = State.reset.msgOut := rfl
@[simp] theorem resetBlock_frameOut : (s.resetBlock).frameOut = State.reset.frameOut := rfl
@[simp] theorem resetBlock_eqOut : (s.resetBlock).eqOut = State.reset.eqOut := rfl
@[simp] theorem resetBlock_decOut : (s.resetBlock).decOut = State.reset.decOut := rfl
@[simp] theorem resetBlock_txStatus : (s.resetBlock).txStatus = State.reset.txStatus := rfl
@[simp] theorem resetBlock_txErrTag : (s.resetBlock).txErrTag = State.reset.txErrTag := rfl
@[simp] theorem resetBlock_rxStatus : (s.resetBlock).rxStatus = State.reset.rxStatus := rfl
@[simp] theorem resetBlock_rxMsgOut : (s.resetBlock).rxMsgOut = State.reset.rxMsgOut := rfl
@[simp] theorem resetBlock_txframe : (s.resetBlock).txframe = State.reset.txframe := rfl
@[simp] theorem resetBlock_txoff : (s.resetBlock).txoff = State.reset.txoff := rfl
@[simp] theorem resetBlock_txBusy : (s.resetBlock).txBusy = State.reset.txBusy := rfl
@[simp] theorem resetBlock_expired : (s.resetBlock).expired = State.reset.expired := rfl
@[simp] theorem resetBlock_rxBusy : (s.resetBlock).rxBusy = State.reset.rxBusy := rfl
@[simp] theorem resetBlock_rxTimeout : (s.resetBlock).rxTimeout = State.reset.rxTimeout := rfl
@[simp] theorem resetBlock_chan : (s.resetBlock).chan = s.chan := rfl
@[simp] theorem resetBlock_inputs : (s.resetBlock).inputs = s.inputs := rfl
@[simp] theorem resetBlock_build : (s.resetBlock).build = s.build := rfl
@[simp] theorem resetBlock_free : (s.resetBlock).free = s.free := rfl

end resetBlock

section compact
variable (s : State)

@[simp] theorem compact_rxbuf : (s.compact).rxbuf = s.rxbuf.drop s.sp := rfl
@[simp] theorem compact_sp : (s.compact).sp = 0 := rfl
@[simp] theorem compact_fsm : (s.compact).fsm = s.fsm := rfl
@[simp] theorem compact_broken : (s.compact).broken = s.broken := rfl
@[simp] theorem compact_cmd : (s.compact).cmd = s.cmd := rfl
@[simp] theorem compact_cmdIssued : (s.compact).cmdIssued = s.cmdIssued := rfl
@[simp] theorem compact_msgIn : (s.compact).msgIn = s.msgIn := rfl
@[simp] theorem compact_msgIn2 : (s.compact).msgIn2 = s.msgIn2 := rfl
@[simp] theorem compact_timeout : (s.compact).timeout = s.timeout := rfl
@[simp] theorem compact_decIn : (s.compact).decIn = s.decIn := rfl
@[simp] theorem compact_status : (s.compact).status = s.status := rfl
@[simp] theorem compact_errTag : (s.compact).errTag = s.errTag := rfl
@[simp] theorem compact_msgOut : (s.compact).msgOut = s.msgOut := rfl
@[simp] theorem compact_frameOut : (s.compact).frameOut = s.frameOut := rfl
@[simp] theorem compact_eqOut : (s.compact).eqOut = s.eqOut := rfl
@[simp] theorem compact_decOut : (s.compact).decOut = s.decOut := rfl
@[simp] theorem compact_txStatus : (s.compact).txStatus = s.txStatus := rfl
@[simp] theorem compact_txErrTag : (s.compact).txErrTag = s.txErrTag := rfl
@[simp] theorem compact_rxStatus : (s.compact).rxStatus = s.rxStatus := rfl
@[simp] theorem compact_rxMsgOut : (s.compact).rxMsgOut = s.rxMsgOut := rfl
@[simp] theorem compact_txframe : (s.compact).txframe = s.txframe := rfl
@[simp] theorem compact_txoff : (s.compact).txoff = s.txoff := rfl
@[simp] theorem compact_txBusy : (s.compact).txBusy = s.txBusy := rfl
@[simp] theorem compact_expired : (s.compact).expired = s.expired := rfl
@[simp] theorem compact_rxBusy : (s.compact).rxBusy = s.rxBusy := rfl
@[simp] theorem compact_rxTimeout : (s.compact).rxTimeout = s.rxTimeout := rfl
@[simp] theorem compact_chan : (s.compact).chan = s.chan := rfl
@[simp] theorem compact_inputs : (s.compact).inputs = s.inputs := rfl
@[simp] theorem compact_build : (s.compact).build = s.build := rfl
@[simp] theorem compact_free : (s.compact).free = s.free := rfl

end compact

/-! The channel under an operation that is accepted (rule R161). -/

section channel
variable (ch : Channel)

@[simp] theorem beginSend_kind : ch.beginSend.kind = ch.kind := rfl
@[simp] theorem beginSend_isOpen : ch.beginSend.isOpen = ch.isOpen := rfl
@[simp] theorem beginSend_writeFailed : ch.beginSend.writeFailed = (ch.writeFailed || ch.readFailed) := rfl
@[simp] theorem beginSend_readFailed : ch.beginSend.readFailed = ch.readFailed := rfl
@[simp] theorem beginSend_txStream : ch.beginSend.txStream = ch.txStream := rfl
@[simp] theorem beginSend_rxStream : ch.beginSend.rxStream = ch.rxStream := rfl
@[simp] theorem beginSend_writes : ch.beginSend.writes = ch.writes := rfl
@[simp] theorem beginSend_reads : ch.beginSend.reads = ch.reads := rfl
@[simp] theorem beginRecv_kind : ch.beginRecv.kind = ch.kind := rfl
@[simp] theorem beginRecv_isOpen : ch.beginRecv.isOpen = ch.isOpen := rfl
@[simp] theorem beginRecv_writeFailed : ch.beginRecv.writeFailed = ch.writeFailed := rfl
@[simp] theorem beginRecv_readFailed : ch.beginRecv.readFailed = (ch.readFailed || ch.writeFailed) := rfl
@[simp] theorem beginRecv_txStream : ch.beginRecv.txStream = ch.txStream := rfl
@[simp] theorem beginRecv_rxStream : ch.beginRecv.rxStream = ch.rxStream := rfl
@[simp] theorem beginRecv_writes : ch.beginRecv.writes = ch.writes := rfl
@[simp] theorem beginRecv_reads : ch.beginRecv.reads = ch.reads := rfl

end channel

/-! The fields of the state after reset (rule R33; assumption log 6). -/

section reset

@[simp] theorem reset_rxbuf : State.reset.rxbuf = [] := rfl
@[simp] theorem reset_sp : State.reset.sp = 0 := rfl
@[simp] theorem reset_fsm : State.reset.fsm = .idle := rfl
@[simp] theorem reset_broken : State.reset.broken = false := rfl
@[simp] theorem reset_cmd : State.reset.cmd = 0 := rfl
@[simp] theorem reset_cmdIssued : State.reset.cmdIssued = false := rfl
@[simp] theorem reset_msgIn : State.reset.msgIn = .zero := rfl
@[simp] theorem reset_msgIn2 : State.reset.msgIn2 = .zero := rfl
@[simp] theorem reset_timeout : State.reset.timeout = .zero := rfl
@[simp] theorem reset_decIn : State.reset.decIn = { buf := [], pos := 0 } := rfl
@[simp] theorem reset_status : State.reset.status = 0 := rfl
@[simp] theorem reset_errTag : State.reset.errTag = 0 := rfl
@[simp] theorem reset_msgOut : State.reset.msgOut = .zero := rfl
@[simp] theorem reset_frameOut : State.reset.frameOut = .zero := rfl
@[simp] theorem reset_eqOut : State.reset.eqOut = false := rfl
@[simp] theorem reset_decOut : State.reset.decOut = { buf := [], pos := 0, consumed := 0, frameEnd := 0 } := rfl
@[simp] theorem reset_txStatus : State.reset.txStatus = 0 := rfl
@[simp] theorem reset_txErrTag : State.reset.txErrTag = 0 := rfl
@[simp] theorem reset_rxStatus : State.reset.rxStatus = 0 := rfl
@[simp] theorem reset_rxMsgOut : State.reset.rxMsgOut = .zero := rfl
@[simp] theorem reset_txframe : State.reset.txframe = [] := rfl
@[simp] theorem reset_txoff : State.reset.txoff = 0 := rfl
@[simp] theorem reset_txBusy : State.reset.txBusy = false := rfl
@[simp] theorem reset_expired : State.reset.expired = false := rfl
@[simp] theorem reset_rxBusy : State.reset.rxBusy = false := rfl
@[simp] theorem reset_rxTimeout : State.reset.rxTimeout = .zero := rfl
@[simp] theorem reset_chan : State.reset.chan = .fresh := rfl
@[simp] theorem reset_inputs : State.reset.inputs = [] := rfl
@[simp] theorem reset_build : State.reset.build = { maxRead := ⟨256, by decide⟩, earlyDlcReject := false } := rfl
@[simp] theorem reset_free : State.reset.free = 0 := rfl

end reset

end Sys2Proof.Machine
end

