-- ==== Sys2Proof/Laws/Step.lean ====
section
/-! SUPPORT. What a step can do, said once: the inversion of each command, each engine's turn, and the step. -/

namespace Sys2Proof.Machine

/-! ### Instructions -/

/-- A frame form is delivery (rules R60, R121). -/
theorem exec_frame (f : Frame) (s : State) (h : f.data.length ≤ 8) :
    exec f.instr s = .next (deliver f.data.length f s) := by
  have hl : f.data.length = 0 ∨ f.data.length = 1 ∨ f.data.length = 2 ∨ f.data.length = 3 ∨ f.data.length = 4 ∨
      f.data.length = 5 ∨ f.data.length = 6 ∨ f.data.length = 7 ∨ f.data.length = 8 := by omega
  rcases hl with hl | hl | hl | hl | hl | hl | hl | hl | hl <;> rw [hl] <;> simp only [Frame.instr, hl] <;> rfl

/-- Everything MSG.NEW can do (rule R81). -/
theorem exec_msgNew_next {s t : State} (h : exec .msgNew s = .next t) :
    (∃ v, t = s.endOp .host .rangeError (some v)) ∨
      ∃ out n, t = { s.endOp .host .message none with msgOut := out, free := n } := by
  simp only [exec, execMsgNew] at h
  split at h <;> cases h
  · exact .inl ⟨_, rfl⟩
  · exact .inr ⟨_, _, rfl⟩

/-- Everything ENCODE can do (rule R90). -/
theorem exec_encode_next {s t : State} (h : exec .encode s = .next t) :
    (∃ v, t = s.endOp .host .rangeError (some v)) ∨
      ∃ out n, t = { s.endOp .host .ok none with frameOut := out, free := n } := by
  simp only [exec, execEncode] at h
  split at h <;> cases h
  · exact .inl ⟨_, rfl⟩
  · exact .inr ⟨_, _, rfl⟩

/-- Everything the DECODE command can do (rule R102). -/
theorem exec_decode_next {s t : State} (h : exec .decode s = .next t) :
    (∃ out, t = { s.endOp .host .needMoreData none with decOut := out }) ∨
      ∃ out dec n, t = { s.endOp .host .message none with msgOut := out, decOut := dec, free := n } := by
  simp only [exec, execDecode] at h
  split at h <;> cases h
  · exact .inl ⟨_, rfl⟩
  · exact .inr ⟨_, _, _, rfl⟩

/-- Everything SEND can do before its loop (rules R110, R142). -/
theorem exec_send_next {s t : State} (h : exec .send s = .next t) :
    t = s.refuse .tx ∨ t = s.endOp .tx .transportError none ∨ (∃ v, t = s.endOp .tx .rangeError (some v)) ∨
      s.txBusy = false ∧ s.broken = false ∧
        ∃ bytes, encodeMessage s.operand = .ok bytes ∧
          t = { s with txframe := bytes, txoff := 0, txBusy := true, chan := s.chan.beginSend } := by
  simp only [exec, execSend] at h
  split at h
  · cases h; exact .inl rfl
  · split at h
    · cases h; exact .inr (.inl rfl)
    · split at h <;> cases h
      · exact .inr (.inr (.inl ⟨_, rfl⟩))
      · exact .inr (.inr (.inr ⟨by simpa using ‹¬ s.txBusy = true›, by simpa using ‹¬ s.broken = true›, _, ‹_›, rfl⟩))

/-- Everything RECV can do before its loop (rules R118, R126, R142). -/
theorem exec_recv_next {s t : State} (h : exec .recv s = .next t) :
    t = s.refuse .rx ∨ t = s.endOp .rx .transportError none ∨
      s.rxBusy = false ∧ s.broken = false ∧
        t = { s with rxBusy := true, expired := false, rxTimeout := s.timeout, chan := s.chan.beginRecv } := by
  simp only [exec, execRecv] at h
  split at h
  · cases h; exact .inl rfl
  · split at h <;> cases h
    · exact .inr (.inl rfl)
    · exact .inr (.inr ⟨by simpa using ‹¬ s.rxBusy = true›, by simpa using ‹¬ s.broken = true›, rfl⟩)

/-! ### The engines' turns -/

/-- `c` more bytes accepted: bytes left, or none (rule R111). -/
theorem txAdvance_eq (c : Nat) (ch : Channel) (s : State) :
    txAdvance c ch s =
      if s.txoff + c < s.txframe.length then { s with chan := ch, txoff := s.txoff + c }
      else sendDone { s with chan := ch, txoff := s.txoff + c } := rfl

/-- Everything a turn of the TX engine can do (rules R110 to R112). -/
theorem txTurn_next {s t : State} (h : txTurn s = .next t) :
    t = s ∨
    s.txBusy = true ∧
      (s.txframe.length ≤ s.txoff ∧ t = sendDone s ∨
        s.txoff < s.txframe.length ∧
          ((∃ ch, chWrite s.chan (s.txframe.drop s.txoff) = .failed ch ∧
              t = { (s.breakChannel ch).endOp .tx .transportError none with txBusy := false }) ∨
            ∃ c ch, chWrite s.chan (s.txframe.drop s.txoff) = .accepted c ch ∧ t = txAdvance c ch s)) := by
  unfold txTurn at h
  split at h
  · cases h; exact .inl rfl
  · rename_i hb
    split at h
    · cases h; exact .inr ⟨by simpa using hb, .inl ⟨‹_›, rfl⟩⟩
    · rename_i ho
      split at h <;> first | (cases h; done) | cases h
      · exact .inl rfl
      · exact .inr ⟨by simpa using hb, .inr ⟨by omega, .inl ⟨_, ‹_›, rfl⟩⟩⟩
      · exact .inr ⟨by simpa using hb, .inr ⟨by omega, .inr ⟨_, _, ‹_›, rfl⟩⟩⟩

/-- Everything the RX engine can do when DECODE answers NeedMoreData (rules R120 to R124). -/
theorem rxNeedMore_next {s t : State} (h : rxNeedMore s = .next t) :
    t = s ∨ s.expired = true ∧ t = { s.endOp .rx .timedOut none with rxBusy := false } ∨
      s.expired = false ∧
        ((∃ ch, chRead s.chan s.build.maxRead.val s.rxTimeout = .failed ch ∧
            t = { (s.breakChannel ch).endOp .rx .transportError none with rxBusy := false }) ∨
          ∃ bs e ch, chRead s.chan s.build.maxRead.val s.rxTimeout = .bytes bs e ch ∧
            t = { s.rxAppend bs with chan := ch, expired := e }) := by
  unfold rxNeedMore at h
  split at h
  · cases h; exact .inr (.inl ⟨‹_›, rfl⟩)
  · rename_i he
    split at h <;> first | (cases h; done) | cases h
    · exact .inl rfl
    · exact .inr (.inr ⟨by simpa using he, .inl ⟨_, ‹_›, rfl⟩⟩)
    · exact .inr (.inr ⟨by simpa using he, .inr ⟨_, _, _, ‹_›, rfl⟩⟩)

/-- What a step does with what was fetched. -/
def Fetch.result : Fetch → Result
  | .run i s => exec i s
  | .done r => r

theorem step_eq (s : State) : step s = (fetch s).result := by
  unfold step Fetch.result; cases fetch s <;> rfl

/-- A turn of the RX engine (rules R118, R120, R121, R125): idle, delivery, or one NeedMoreData. -/
theorem rxTurn_result (s : State) :
    (rxTurn s).result =
      if s.rxBusy = false then .next s
      else match decodeBuffer s.build.earlyDlcReject s.rxbuf s.sp with
        | (.frame f _ _, buf, pos) => .next (deliver f.data.length f { s with rxbuf := buf, sp := pos, fsm := .frameComplete })
        | (.needMore arm, buf, pos) => rxNeedMore { s with rxbuf := buf, sp := pos, fsm := arm.fsm } := by
  unfold rxTurn
  split
  · rfl
  · have ha := decodeBuffer_answer s.build.earlyDlcReject s.rxbuf s.sp
    generalize decodeBuffer s.build.earlyDlcReject s.rxbuf s.sp = r at ha
    cases ha with
    | accept q p hq hs f rest hd => exact exec_frame f _ (accepted_length hd).2
    | _ => rfl

/-! ### The step -/

/-- The commands, one by one (rule R73). -/
theorem exec_command_next {c : BitVec 4} {s t : State} (h : exec (decodeCommand c) s = .next t) :
    t = s ∨ exec .msgNew s = .next t ∨ exec .msgEq s = .next t ∨ exec .encode s = .next t ∨ exec .decode s = .next t ∨
      exec .send s = .next t ∨ exec .recv s = .next t ∨ t = s.refuse .host := by
  unfold decodeCommand at h
  split at h <;> first
    | (cases h; exact .inl rfl)
    | (cases h; exact .inr (.inr (.inr (.inr (.inr (.inr (.inr rfl))))))) 
    | (simp only [h]; simp)

/-- Everything a step can do. -/
theorem step_next {s t : State} (h : step s = .next t) :
    s.cmdIssued = true ∧ exec (decodeCommand s.cmd) { s with cmdIssued := false } = .next t ∨
      s.cmdIssued = false ∧
        ((∃ a rest, s.inputs = .host a :: rest ∧ t = { s with inputs := rest }.hostAction a) ∨
          (∃ rest, (s.inputs = .txTurn :: rest ∨ s.inputs = [] ∧ rest = []) ∧ txTurn { s with inputs := rest } = .next t) ∨
          ∃ rest, (s.inputs = .rxTurn :: rest ∨ s.inputs = [] ∧ rest = []) ∧
            (rxTurn { s with inputs := rest }).result = .next t) := by
  rw [step_eq] at h
  unfold fetch at h
  split at h
  · exact .inl ⟨‹_›, h⟩
  · rename_i hc
    refine .inr ⟨by simpa using hc, ?_⟩
    split at h
    · cases h; exact .inl ⟨_, _, ‹_›, rfl⟩
    · exact .inr (.inl ⟨_, .inl ‹_›, h⟩)
    · exact .inr (.inr ⟨_, .inl ‹_›, h⟩)
    · rename_i hi
      have hs : { s with inputs := [] } = s := by cases s; simp_all
      unfold freeRun at h
      split at h
      · exact .inr (.inl ⟨[], .inr ⟨hi, rfl⟩, by rw [hs]; exact h⟩)
      · exact .inr (.inr ⟨[], .inr ⟨hi, rfl⟩, by rw [hs]; exact h⟩)

end Sys2Proof.Machine
end

