-- ==== Sys2Proof/Laws/Timestamp.lean ====
section
/-! SUPPORT. What `TsDequant` and `TsQuant` compute, said once (rules R83, R84). -/

namespace Sys2Proof.Machine

open Float64

theorem mag_msPerS : mag Config.msPerS = 1000 * one ∧ sign Config.msPerS = false := by decide +kernel

/-- The magnitude under `TsDequant(k)`: `k / 1000`, rounded once (rule R84). -/
theorem tsDequant_eq (k : Word32) : tsDequant k = ofRat (k.toNat * one) (1000 * one) := by
  obtain ⟨h1, -, h3⟩ := mag_ofNat k.toNat (by have := k.isLt; omega)
  unfold tsDequant fdiv
  rw [h1, h3, mag_msPerS.1, mag_msPerS.2]; rfl

theorem thousand_one_pos : 0 < 1000 * one := by
  have := unit_pos
  omega

theorem tsDequant_log (k : Word32) : Nat.log2 (k.toNat * one * one / (1000 * one)) < 2096 := by
  rw [Nat.mul_div_mul_right _ _ unit_pos]
  by_cases h0 : k.toNat * one / 1000 = 0
  · rw [h0]; simp
  · rw [Nat.log2_lt h0]
    refine Nat.lt_of_le_of_lt (Nat.div_le_self _ _) (Nat.lt_of_lt_of_le (Nat.mul_lt_mul_of_pos_right k.isLt unit_pos) ?_)
    rw [pow_mul_one]
    exact Nat.pow_le_pow_right (by decide) (by decide)

/-- `TsDequant(k)` is finite and not negative (rule R84). -/
theorem tsDequant_finite (k : Word32) : expField (tsDequant k) < 2047 ∧ sign (tsDequant k) = false := by
  rw [tsDequant_eq]
  exact (mag_ofRat _ _ thousand_one_pos (tsDequant_log k)).2

/-- `TsDequant(k)` is within one part in `2^53` of `k / 1000` (rule R84). -/
theorem tsDequant_error (k : Word32) (hk : 0 < k.toNat) :
    2 ^ 53 * (k.toNat * one) ≤ 2 ^ 53 * (mag (tsDequant k) * 1000) + k.toNat * one ∧
      2 ^ 53 * (mag (tsDequant k) * 1000) ≤ 2 ^ 53 * (k.toNat * one) + k.toNat * one := by
  obtain ⟨e1, e2⟩ := mag_ofRat_error (k.toNat * one) (1000 * one) thousand_one_pos (tsDequant_log k) (by
    rw [Nat.mul_div_mul_right _ _ unit_pos, Nat.le_div_iff_mul_le (by decide)]
    have : 2 ^ 52 * 1000 ≤ one := by decide +kernel
    have := Nat.mul_le_mul_right one hk
    omega)
  rw [tsDequant_eq]
  have hp := unit_pos
  generalize mag (ofRat (k.toNat * one) (1000 * one)) = m at *
  generalize one = o at *
  generalize k.toNat = n at *
  constructor
  · have : (2 ^ 53 * (n * o)) * o ≤ (2 ^ 53 * (m * 1000) + n * o) * o := by nlinarith
    exact Nat.le_of_mul_le_mul_right this hp
  · have : (2 ^ 53 * (m * 1000)) * o ≤ (2 ^ 53 * (n * o) + n * o) * o := by nlinarith
    exact Nat.le_of_mul_le_mul_right this hp

/-- The signed value of a magnitude whose sign bit is clear. -/
theorem value_of_sign {x : F64} (h : sign x = false) : value x = (mag x : Int) := by simp [value, h]

end Sys2Proof.Machine
end

