-- ==== Sys2Proof/Tests/Slice0.lean ====
section
/-! SUPPORT. The model's own tests. Expected values come from 95_test_vectors.md or are computed by hand from the rules cited;
`witness_<statement>` shows a state and operands that meet the hypotheses of the obligation of that name, one theorem per
clause where the clauses differ. -/

open Sys2Proof Sys2Proof.Machine

namespace Sys2Proof.Tests

/-! ### Reference frames and small builders (95_test_vectors.md, 2.1) -/

/-- Vector F0. -/
def f0 : Frame := { ms := 0, id := 0, data := [] }
/-- Vector F1. -/
def f1 : Frame := { ms := 1500, id := 0x123, data := [0xDE, 0xAD, 0xBE, 0xEF] }
/-- Vector F2. -/
def f2 : Frame := { ms := 4294967295, id := 0x1FFFFFFF, data := [1, 2, 3, 4, 5, 6, 7, 8] }
/-- The bytes of F0, as the spec writes them. -/
def b0 : List Byte := [0xAA, 0x00, 0x00, 0x00, 0x00, 0x00, 0x00, 0x00, 0x00, 0x00, 0xBB]
/-- The bytes of F1. -/
def b1 : List Byte := [0xAA, 0x00, 0x00, 0x05, 0xDC, 0x04, 0x00, 0x00, 0x01, 0x23, 0xDE, 0xAD, 0xBE, 0xEF, 0xBB]
/-- The bytes of F2. -/
def b2 : List Byte :=
  [0xAA, 0xFF, 0xFF, 0xFF, 0xFF, 0x08, 0x1F, 0xFF, 0xFF, 0xFF, 0x01, 0x02, 0x03, 0x04, 0x05, 0x06, 0x07, 0x08, 0xBB]

/-- An operand register whose lanes beyond `data` are 0. -/
def operandReg (id : Word32) (data : List Byte) (ts : F64) : MsgIn :=
  { id := id, len := BitVec.ofNat 8 data.length, data := lanes 8 (fun _ => 0) data, ts := ts, ext := true }

/-- F1's operand: id 0x123, DE AD BE EF, 1.5 seconds. -/
def op1 : MsgIn := operandReg 0x123 [0xDE, 0xAD, 0xBE, 0xEF] 0x3FF8000000000000
/-- X10's operand, at every upper bound. -/
def opMax : MsgIn := operandReg 0x1FFFFFFF [1, 2, 3, 4, 5, 6, 7, 8] 0x4150624DD2E147AE
/-- An operand that violates only the identifier (X1). -/
def opId : MsgIn := operandReg 0x20000000 [] 0
/-- An operand that violates only the length (X2). -/
def opLen : MsgIn := { operandReg 0x1FFFFFFF [] 0 with len := 9 }
/-- An operand that violates only the timestamp, by one unit in the last place (X5). -/
def opTs : MsgIn := operandReg 0 [1, 2, 3, 4, 5, 6, 7, 8] 0x4150624DD2E147AF

/-- Reset with an operand. -/
def sOp (m : MsgIn) : State := { State.reset with msgIn := m }

/-- A SEND of F1 in flight, `off` bytes accepted, the TX engine's turn next, with the channel's answers. -/
def sTx (off : Nat) (ws : List WriteAnswer) : State :=
  { State.reset with inputs := [.txTurn], txBusy := true, txframe := b1, txoff := off, chan := { Channel.fresh with writes := ws } }

/-- A RECV in flight over `buf`, the RX engine's turn next, with the channel's answers and stream. -/
def sRx (buf : List Byte) (rs : List ReadAnswer) (stream : List Byte) : State :=
  { State.reset with inputs := [.rxTurn], rxBusy := true, rxbuf := buf, chan := { Channel.fresh with reads := rs, rxStream := stream } }

/-- One field of the state a step answers. -/
def field {α : Type} (g : State → α) (r : Result) : Option α := (nextState? r).map g

/-! ### WellFormed -/

theorem test_wf_refuses_d0 : ¬ (Instr.frameD0 { f0 with data := [0] }).WellFormed := by decide
theorem test_wf_refuses_d1 : ¬ (Instr.frameD1 f0).WellFormed := by decide
theorem test_wf_refuses_d2 : ¬ (Instr.frameD2 f1).WellFormed := by decide
theorem test_wf_refuses_d3 : ¬ (Instr.frameD3 f1).WellFormed := by decide
theorem test_wf_refuses_d4 : ¬ (Instr.frameD4 f2).WellFormed := by decide
theorem test_wf_refuses_d5 : ¬ (Instr.frameD5 f1).WellFormed := by decide
theorem test_wf_refuses_d6 : ¬ (Instr.frameD6 f1).WellFormed := by decide
theorem test_wf_refuses_d7 : ¬ (Instr.frameD7 f2).WellFormed := by decide
theorem test_wf_refuses_d8 : ¬ (Instr.frameD8 { f2 with data := f2.data ++ [9] }).WellFormed := by decide
theorem test_wf_accepts : (Instr.frameD8 f2).WellFormed ∧ (Instr.frameD0 f0).WellFormed ∧ Instr.send.WellFormed := by decide

/-! ### Decoding: every constructor from a word written out from rules R68 and R73 -/

theorem test_decode_nop : decode (.command 0b0000) = .ok .nop := by decide
theorem test_decode_msgNew : decode (.command 0b0001) = .ok .msgNew := by decide
theorem test_decode_msgEq : decode (.command 0b0010) = .ok .msgEq := by decide
theorem test_decode_encode : decode (.command 0b0011) = .ok .encode := by decide
theorem test_decode_decode : decode (.command 0b0100) = .ok .decode := by decide
theorem test_decode_send : decode (.command 0b0101) = .ok .send := by decide
theorem test_decode_recv : decode (.command 0b0110) = .ok .recv := by decide
theorem test_decode_reserved7 : decode (.command 0b0111) = .ok .reserved7 := by decide
theorem test_decode_reserved8 : decode (.command 0b1000) = .ok (.reserved8To15 0) := by decide
theorem test_decode_reserved15 : decode (.command 0b1111) = .ok (.reserved8To15 7) := by decide

/-- E-D0. -/
theorem test_decode_frameD0 : decode (.frame [0xAA, 0x00, 0x00, 0x00, 0x00, 0x00, 0x00, 0x00, 0x00, 0x01, 0xBB]) =
    .ok (.frameD0 { ms := 0, id := 1, data := [] }) := by decide
/-- E-D1. -/
theorem test_decode_frameD1 : decode (.frame [0xAA, 0x00, 0x00, 0x03, 0xE8, 0x01, 0x00, 0x00, 0x00, 0x02, 0x10, 0xBB]) =
    .ok (.frameD1 { ms := 1000, id := 2, data := [0x10] }) := by decide
/-- E-D2. -/
theorem test_decode_frameD2 : decode (.frame [0xAA, 0x00, 0x00, 0x07, 0xD0, 0x02, 0x00, 0x00, 0x00, 0x03, 0x20, 0x21, 0xBB]) =
    .ok (.frameD2 { ms := 2000, id := 3, data := [0x20, 0x21] }) := by decide
/-- F4. -/
theorem test_decode_frameD3 : decode (.frame [0xAA, 0x00, 0x12, 0xD6, 0x88, 0x03, 0x18, 0xDA, 0xF1, 0x10, 0x02, 0x10, 0x03, 0xBB]) =
    .ok (.frameD3 { ms := 1234568, id := 0x18DAF110, data := [0x02, 0x10, 0x03] }) := by decide
/-- F1. -/
theorem test_decode_frameD4 : decode (.frame b1) = .ok (.frameD4 f1) := by decide
/-- E-D5. -/
theorem test_decode_frameD5 :
    decode (.frame [0xAA, 0x00, 0x00, 0x13, 0x88, 0x05, 0x00, 0x00, 0x00, 0x06, 0x50, 0x51, 0x52, 0x53, 0x54, 0xBB]) =
      .ok (.frameD5 { ms := 5000, id := 6, data := [0x50, 0x51, 0x52, 0x53, 0x54] }) := by decide
/-- E-D6. -/
theorem test_decode_frameD6 :
    decode (.frame [0xAA, 0x00, 0x00, 0x17, 0x70, 0x06, 0x00, 0x00, 0x00, 0x07, 0x60, 0x61, 0x62, 0x63, 0x64, 0x65, 0xBB]) =
      .ok (.frameD6 { ms := 6000, id := 7, data := [0x60, 0x61, 0x62, 0x63, 0x64, 0x65] }) := by decide
/-- E-D7. -/
theorem test_decode_frameD7 :
    decode (.frame [0xAA, 0x00, 0x00, 0x1B, 0x58, 0x07, 0x00, 0x00, 0x00, 0x08, 0x70, 0x71, 0x72, 0x73, 0x74, 0x75, 0x76,
      0xBB]) = .ok (.frameD7 { ms := 7000, id := 8, data := [0x70, 0x71, 0x72, 0x73, 0x74, 0x75, 0x76] }) := by decide
/-- F2. -/
theorem test_decode_frameD8 : decode (.frame b2) = .ok (.frameD8 f2) := by decide

theorem test_decode_refuses_start : decode (.frame (0xAB :: b0.tail)) = .error .notStart := by decide
theorem test_decode_refuses_header : decode (.frame (b0.take 10)) = .error .shortHeader := by decide
theorem test_decode_refuses_frame : decode (.frame (b1.take 14)) = .error .shortFrame := by decide
theorem test_decode_refuses_dlc :
    decode (.frame ([0xAA, 0, 0, 0, 0, 9, 0, 0, 0, 0, 0, 0, 0, 0, 0, 0, 0, 0, 0, 0xBB])) = .error .impossibleDlc := by decide
/-- V9. -/
theorem test_decode_refuses_reserved_bits :
    decode (.frame [0xAA, 0, 0, 0, 0, 0, 0x20, 0, 0, 0, 0xBB]) = .error .reservedBits := by decide
/-- V8. -/
theorem test_decode_refuses_end : decode (.frame (b1.take 14 ++ [0xBC])) = .error .badEnd := by decide
theorem test_decode_refuses_trailing : decode (.frame (b0 ++ [0x99])) = .error .trailingBytes := by decide

theorem test_encode_frame : encode (.frameD4 f1) = .frame b1 ∧ encode (.frameD8 f2) = .frame b2 := by decide

theorem test_table_word_command : decodeTableWord 8 0x5 = some .send ∧ decodeTableWord 8 0x9 = some (.reserved8To15 1) := by
  decide
theorem test_table_word_frame : decodeTableWord 88 0xAA000000000000000000BB = some (.frameD0 f0) ∧
    decodeTableWord 96 0xAA000000FA01000000107FBB = some (.frameD1 { ms := 250, id := 0x10, data := [0x7F] }) ∧
    decodeTableWord 88 0xBB000000000000000000AA = some (.frameD0 f0) := by decide

/-! ### One step per instruction -/

theorem test_nop : step { State.reset with cmd := 0, cmdIssued := true } = .next State.reset := rfl
/-- X11: `-0.0` is accepted and kept. -/
theorem test_msgNew : field (fun t => (t.status, t.msgOut.ts, t.msgOut.tsMs)) (exec .msgNew (sOp (operandReg 0 [] 0x8000000000000000))) =
    some (2, 0x8000000000000000, 0) := by decide +kernel
/-- X8: the first tag wins. -/
theorem test_msgNew_first_tag : field (fun t => (t.status, t.errTag))
    (exec .msgNew (sOp { operandReg 0x20000000 [] 0xBFF0000000000000 with len := 9 })) = some (5, 1) := by decide +kernel
/-- Table 2.4: the timestamp is not compared. -/
theorem test_msgEq_timestamp : field (fun t => (t.status, t.eqOut))
    (exec .msgEq { sOp (operandReg 5 [1] 0x3FF0000000000000) with msgIn2 := operandReg 5 [1] 0x4000000000000000 }) =
      some (1, true) := by decide
/-- Table 2.4: the length is compared. -/
theorem test_msgEq_dlc : field (fun t => t.eqOut)
    (exec .msgEq { sOp (operandReg 5 [1] 0) with msgIn2 := operandReg 5 [1, 0] 0 }) = some false := by decide
/-- F1. -/
theorem test_encode : field (fun t => (t.status, t.frameOut.len, t.frameOut.bytes.toList.take 15)) (exec .encode (sOp op1)) =
    some (1, 15, b1) := by decide +kernel
/-- X5. -/
theorem test_encode_range : field (fun t => (t.status, t.errTag, t.frameOut.len)) (exec .encode (sOp opTs)) =
    some (5, 3, 0) := by decide +kernel
/-- V3. -/
theorem test_decode : field (fun t => (t.status, t.msgOut.tsMs, t.decOut.pos, t.decOut.consumed, t.decOut.frameEnd))
    (exec .decode { State.reset with decIn := { buf := [0x00, 0xFF, 0x13] ++ b1, pos := 0 } }) =
      some (2, 1500, 3, 15, 18) := by decide +kernel
/-- V2: a buffer of noise is discarded. -/
theorem test_decode_noise : field (fun t => (t.status, t.decOut.buf, t.decOut.pos))
    (exec .decode { State.reset with decIn := { buf := [0x00, 0x55, 0xBB, 0x12], pos := 1 } }) = some (4, [], 0) := by decide
theorem test_send : field (fun t => (t.txframe, t.txoff, t.txBusy)) (exec .send (sOp op1)) = some (b1, 0, true) := by
  decide +kernel
/-- P4 step 8: the latch is tested before validation. -/
theorem test_send_broken : field (fun t => (t.txStatus, t.txErrTag)) (exec .send { sOp opId with broken := true }) =
    some (6, 0) := by decide
/-- T2: 4 of the 15 bytes accepted, then 11 offered. -/
theorem test_write_turn : field (fun t => (t.chan.txStream, t.txoff, t.txBusy)) (step (sTx 4 [.count 7])) =
    some ([0xDC, 0x04, 0x00, 0x00, 0x01, 0x23, 0xDE], 11, true) := by decide
theorem test_recv : field (fun t => (t.rxBusy, t.expired, t.rxTimeout))
    (exec .recv { State.reset with timeout := .finite ⟨5, by decide⟩, expired := true }) = some (true, false, .finite ⟨5, by decide⟩) := by decide
/-- Q7. -/
theorem test_recv_busy : field (fun t => t.rxStatus) (exec .recv { State.reset with rxBusy := true, broken := true }) =
    some 7 := by decide
/-- Rule R140: nothing but STATUS changes. -/
theorem test_reserved7 : field (fun t => (t.status, t.errTag)) (exec .reserved7 { State.reset with status := 5, errTag := 2 }) =
    some (7, 2) := by decide
/-- T8, after a SEND that ended with RangeError (rule R140). -/
theorem test_send_busy : field (fun t => (t.txStatus, t.txErrTag)) (exec .send { sTx 4 [] with txStatus := 5, txErrTag := 3 }) =
    some (7, 3) := by decide
theorem test_reserved8To15 : field (fun t => (t.status, t.txStatus)) (exec (.reserved8To15 5) State.reset) = some (7, 0) := by
  decide
/-- Q3: the frame in the buffer is delivered without a read; one test per frame form's data length class. -/
theorem test_frameD4 : field (fun t => (t.rxbuf, t.sp, t.rxStatus, t.rxMsgOut.ts, t.rxMsgOut.data.toList.take 4))
    (step (sRx b1 [] [])) = some ([], 0, 2, 0x3FF8000000000000, f1.data) := by decide +kernel
/-- Delivery drops the dead bytes and the frame (rules R103, R121), each form its own length. -/
theorem test_frame_forms : ∀ k : Fin 9,
    field (fun t => (t.rxbuf, t.rxMsgOut.len.toNat)) (exec ({ f2 with data := f2.data.take k } : Frame).instr
      { sRx ([0x13] ++ encodeFields { f2 with data := f2.data.take k } ++ [0x55]) [] [] with sp := 1 }) =
        some ([0x55], k.val) := by decide +kernel
/-- withFetchWord puts a row's instruction where the next step fetches it. -/
theorem test_fetch_word_command : field (fun t => t.rxBusy) (step (State.reset.withFetchWord 8 6)) = some true := by decide
theorem test_fetch_word_frame : field (fun t => (t.rxStatus, t.rxMsgOut.id)) (step (State.reset.withFetchWord 88
    0xAA000000000000000001BB)) = some (2, 1) := by decide +kernel

/-! ### DECODE (95_test_vectors.md, 2.5) -/

/-- V12 and V12e: a frame held back, and found with early rejection. -/
theorem test_early_reject :
    decodeBuffer false ([0xAA, 0xFF, 0xFF, 0xFF, 0xFF, 0xFF] ++ b0) 0 =
      (.needMore .frame, [0xAA, 0xFF, 0xFF, 0xFF, 0xFF, 0xFF] ++ b0, 0) ∧
    decodeBuffer true ([0xAA, 0xFF, 0xFF, 0xFF, 0xFF, 0xFF] ++ b0) 0 =
      (.frame f0 11 17, [0xAA, 0xFF, 0xFF, 0xFF, 0xFF, 0xFF] ++ b0, 6) := by decide
/-- V14: a false acceptance. -/
theorem test_false_acceptance : decodeBuffer false ([0xAA, 0, 0, 0, 0, 8, 0, 0] ++ b0) 0 =
    (.frame { ms := 0, id := 0xAA00, data := [0, 0, 0, 0, 0, 0, 0, 0] } 19 19, [0xAA, 0, 0, 0, 0, 8, 0, 0] ++ b0, 0) := by
  decide
/-- V18: the scan starts at the cursor. -/
theorem test_scan_from_cursor : decodeBuffer false ([0xAA, 0, 0] ++ b0) 3 = (.frame f0 11 14, [0xAA, 0, 0] ++ b0, 3) := by
  decide
/-- V5 and V7: the header arm and the frame arm. -/
theorem test_need_arms : decodeBuffer false (b1.take 10) 0 = (.needMore .header, b1.take 10, 0) ∧
    decodeBuffer false (b1.take 14) 0 = (.needMore .frame, b1.take 14, 0) := by decide

/-! ### Witnesses -/

theorem witness_DecodeEncodeRoundTrip : (Instr.frameD8 f2).WellFormed ∧ (Instr.frameD0 f0).WellFormed := by decide
theorem witness_FrameLengthAndShape : f2.data.length ≤ 8 ∧ f0.data.length ≤ 8 := by decide
theorem witness_WireFieldsAreBigEndian : f2.data.length ≤ 8 ∧ 7 < f2.data.length := by decide
theorem witness_DecodedBytesAreTheFrame : decodeFields (b2 ++ [0x01]) = .ok (f2, [0x01]) := by decide
theorem witness_EncodingIsCanonical :
    violation (opMax.operand fun _ => 0) = none ∧ violation (op1.operand fun _ => 0) = none ∧
      decodeFields b2 = .ok (f2, []) := by decide +kernel
theorem witness_ViolationNamesTheFirst :
    violation (opId.operand fun _ => 0) = some .arbitrationId ∧ violation (opLen.operand fun _ => 0) = some .payloadLength ∧
      violation (opTs.operand fun _ => 0) = some .timestamp ∧ violation (opMax.operand fun _ => 0) = none := by
  decide +kernel
theorem witness_QuantAndDequantAreMonotone : tsValid 0x8000000000000000 = true ∧ tsValid 0x4150624DD2E147AE = true ∧
    Float64.le 0x8000000000000000 0x4150624DD2E147AE = true ∧ (0 : Word32).toNat ≤ (0xFFFFFFFF : Word32).toNat := by
  decide +kernel
theorem witness_DecodedMessagesAreValid : decodeFields b2 = .ok (f2, []) := by decide
theorem witness_MsgNewHandsBackTheOperand :
    (sOp opMax).msgIn.id.toNat ≤ 536870911 ∧ (sOp opMax).msgIn.len.toNat ≤ 8 ∧ tsValid (sOp opMax).msgIn.ts = true ∧
      7 < (sOp opMax).msgIn.len.toNat := by decide +kernel
theorem witness_MsgNewHandsBackTheOperand_violation : violation (sOp opLen).operand = some .payloadLength := by decide +kernel
theorem witness_InvalidOperandIsRangeError_id :
    (Instr.encode = .msgNew ∨ Instr.encode = .encode) ∧ 536870911 < (sOp opId).msgIn.id.toNat := by decide
theorem witness_InvalidOperandIsRangeError_len :
    (sOp opLen).msgIn.id.toNat ≤ 536870911 ∧ 8 < (sOp opLen).msgIn.len.toNat := by decide
theorem witness_InvalidOperandIsRangeError_ts :
    (sOp opTs).msgIn.id.toNat ≤ 536870911 ∧ (sOp opTs).msgIn.len.toNat ≤ 8 ∧ tsValid (sOp opTs).msgIn.ts = false := by
  decide +kernel
theorem witness_MsgEqComparesIdAndData : (sOp opMax).msgIn.len.toNat ≤ 8 ∧ (sOp opMax).msgIn.id = opMax.id ∧
    (sOp opMax).msgIn.len = opMax.len ∧ ∀ k : Fin 8, (sOp opMax).msgIn.data[k] = opMax.data[k] := by decide
theorem witness_EncodeWritesTheFrame :
    (sOp opMax).msgIn.id.toNat ≤ 536870911 ∧ (sOp opMax).msgIn.len.toNat ≤ 8 ∧ tsValid (sOp opMax).msgIn.ts = true := by
  decide +kernel
theorem witness_EncodeWritesTheFrame_violation : violation (sOp opTs).operand = some .timestamp := by decide +kernel
theorem witness_DecodeCommandReportsTheFrame :
    decodeBuffer State.reset.build.earlyDlcReject (b1.take 14) 0 = (.needMore .frame, b1.take 14, 0) ∧
      decodeBuffer State.reset.build.earlyDlcReject b2 0 = (.frame f2 19 19, b2, 0) := by decide

/-- The first byte of a buffer that begins with START is the first START. -/
theorem first_start_at_head (buf : List Byte) : IsFirstStart (0xAA :: buf) 0 0 := ⟨Nat.le_refl 0, rfl, fun _ _ h => by omega⟩

theorem witness_DecodeOneCandidateArms_noStart :
    1 ≤ ([0xAA, 0x55] : List Byte).length ∧ ∀ i, 1 ≤ i → ([0xAA, 0x55] : List Byte)[i]? ≠ some 0xAA :=
  ⟨by decide, findStart_eq_none_iff.mp (by decide)⟩
/-- 10 bytes: the last length the header arm takes. -/
theorem witness_DecodeOneCandidateArms_header : IsFirstStart (b1.take 10) 0 0 ∧ (b1.take 10).length - 0 < 11 :=
  ⟨first_start_at_head _, by decide⟩
/-- A header whose `dlc` is 9, cut at 11 bytes. -/
def b9 : List Byte := [0xAA, 0, 0, 0, 0, 9, 0, 0, 0, 0, 0]
/-- 11 bytes: the first length the frame arm takes; with a `dlc` of 9, which early rejection takes. -/
theorem witness_DecodeOneCandidateArms_frame :
    (0 ≤ (b1.take 11).length ∧ IsFirstStart (b1.take 11) 0 0 ∧ 11 ≤ (b1.take 11).length - 0 ∧
      (b1.take 11).length - 0 < 11 + ((b1.take 11).getD (0 + 5) 0).toNat) ∧
    0 ≤ b9.length ∧ IsFirstStart b9 0 0 ∧ 11 ≤ b9.length - 0 ∧ b9.length - 0 < 11 + (b9.getD (0 + 5) 0).toNat ∧
      8 < (b9.getD (0 + 5) 0).toNat :=
  ⟨⟨by decide, first_start_at_head _, by decide⟩, by decide, first_start_at_head _, by decide⟩
/-- F1 with a wrong END (V8). -/
def bBad : List Byte := b1.take 14 ++ [0xBC]
/-- 15 bytes for a `dlc` of 4, accepted; the same with a wrong END, rejected. -/
theorem witness_DecodeOneCandidateArms_complete :
    (0 ≤ b1.length ∧ IsFirstStart b1 0 0 ∧ 11 + (b1.getD (0 + 5) 0).toNat ≤ b1.length - 0 ∧ (b1.getD (0 + 5) 0).toNat ≤ 8 ∧
      (b1.getD (0 + 6) 0).toNat ≤ 0x1F ∧ b1.getD (0 + 10 + (b1.getD (0 + 5) 0).toNat) 0 = 0xBB) ∧
    0 ≤ bBad.length ∧ IsFirstStart bBad 0 0 ∧ 11 + (bBad.getD (0 + 5) 0).toNat ≤ bBad.length - 0 ∧
      bBad.getD (0 + 10 + (bBad.getD (0 + 5) 0).toNat) 0 ≠ 0xBB :=
  ⟨⟨by decide, first_start_at_head _, by decide⟩, by decide, first_start_at_head _, by decide⟩
theorem witness_DecodeRepeatsWhileCorrupt : 1 ≤ b1.length ∧ b1.length ≤ b1.length := by decide
/-- All three arms; with 10, 11 and, early, 18 live bytes. -/
theorem witness_NeedMoreDataLeavesFewLiveBytes :
    decodeBuffer false [0x55] 0 = (.needMore .noStart, [], 0) ∧
    decodeBuffer false (b1.take 10) 0 = (.needMore .header, b1.take 10, 0) ∧
    decodeBuffer true (b2.take 18) 0 = (.needMore .frame, b2.take 18, 0) := by decide
theorem witness_DecodedFrameStandsAtTheCursor :
    decodeBuffer false ([0x13] ++ b2 ++ [0xAA]) 0 = (.frame f2 19 20, [0x13] ++ b2 ++ [0xAA], 1) := by decide
theorem witness_DecodeUndoesEncode : violation (opMax.operand fun _ => 0) = none := by decide +kernel
/-- V24: a candidate with a wrong END before the frame. -/
theorem witness_FrameBehindRejectedNoiseIsFound :
    f0.data.length ≤ 8 ∧ ∀ i, i < ([0xAA, 0, 0, 0, 0, 0, 0, 0, 0, 0, 0] : List Byte).length →
      ([0xAA, 0, 0, 0, 0, 0, 0, 0, 0, 0, 0] : List Byte)[i]? = some 0xAA →
        RejectedAt false ([0xAA, 0, 0, 0, 0, 0, 0, 0, 0, 0, 0] ++ encodeFields f0) i := by
  refine ⟨by decide, fun i h hs => ?_⟩
  have h0 : i = 0 := by
    revert hs
    have : ∀ j : Fin 11, ([0xAA, 0, 0, 0, 0, 0, 0, 0, 0, 0, 0] : List Byte)[j.val]? = some 0xAA → j.val = 0 := by decide
    exact this ⟨i, h⟩
  subst h0
  refine ⟨by decide, .inr ⟨by decide, ?_⟩⟩
  have hd : decodeFields (([0xAA, 0, 0, 0, 0, 0, 0, 0, 0, 0, 0] ++ encodeFields f0).drop 0) = .error .badEnd := by decide
  intro f rest h
  exact absurd (hd.symm.trans h) (by simp)

theorem witness_StepRunsTheIssuedCommand :
    ({ State.reset with cmd := 15, cmdIssued := true } : State).cmdIssued = true ∧
      decode (.command 15) = .ok (.reserved8To15 7) := by decide
theorem witness_StepRunsTheFrameAtTheCursor :
    (sRx b1 [] []).cmdIssued = false ∧ (sRx b1 [] []).inputs = .rxTurn :: [] ∧ (sRx b1 [] []).rxBusy = true ∧
      decodeFields ((sRx b1 [] []).rxbuf.drop (sRx b1 [] []).sp) = .ok (f1, []) := by decide
/-- V3's buffer: three bytes of noise before F1. -/
theorem witness_StepRunsTheFrameAtTheCursor_noise :
    (sRx ([0x00, 0xFF, 0x13] ++ b1) [] []).cmdIssued = false ∧ (sRx ([0x00, 0xFF, 0x13] ++ b1) [] []).inputs = .rxTurn :: [] ∧
      (sRx ([0x00, 0xFF, 0x13] ++ b1) [] []).rxBusy = true ∧
      decodeBuffer false ([0x00, 0xFF, 0x13] ++ b1) 0 = (.frame f1 15 18, [0x00, 0xFF, 0x13] ++ b1, 3) := by decide
theorem witness_EveryFrameFormIsDelivered : ∀ k : Fin 9, ({ f2 with data := f2.data.take k } : Frame).data.length = k := by
  decide
theorem witness_SendLatchesTheFrame :
    (sOp opMax).txBusy = false ∧ (sOp opMax).broken = false ∧ (sOp opMax).msgIn.id.toNat ≤ 536870911 ∧
      (sOp opMax).msgIn.len.toNat ≤ 8 ∧ tsValid (sOp opMax).msgIn.ts = true := by decide +kernel
theorem witness_SendTestsBusyThenBrokenThenRange_busy : (sTx 4 []).txBusy = true := rfl
theorem witness_SendTestsBusyThenBrokenThenRange_broken :
    ({ sOp opId with broken := true } : State).txBusy = false ∧ ({ sOp opId with broken := true } : State).broken = true := by
  decide
theorem witness_SendTestsBusyThenBrokenThenRange_range :
    ((sOp opId).txBusy = false ∧ (sOp opId).broken = false ∧ 536870911 < (sOp opId).msgIn.id.toNat) ∧
    ((sOp opLen).txBusy = false ∧ (sOp opLen).broken = false ∧ (sOp opLen).msgIn.id.toNat ≤ 536870911 ∧
      8 < (sOp opLen).msgIn.len.toNat) ∧
    ((sOp opTs).txBusy = false ∧ (sOp opTs).broken = false ∧ (sOp opTs).msgIn.id.toNat ≤ 536870911 ∧
      (sOp opTs).msgIn.len.toNat ≤ 8 ∧ tsValid (sOp opTs).msgIn.ts = false) := by decide +kernel

/-- What the statements about a turn of the TX engine that writes ask of a state. -/
abbrev txHyps (s : State) (ws : List WriteAnswer) : Prop :=
  s.cmdIssued = false ∧ s.inputs = .txTurn :: [] ∧ s.txBusy = true ∧ s.txoff < s.txframe.length ∧
    s.chan.kind = .external ∧ s.chan.writable = true ∧ s.chan.writes = ws
/-- `c` = 0 and 10 leave bytes. -/
theorem witness_WriteTurnOffersTheRemainder_more :
    (txHyps (sTx 4 [.count 0]) (.count 0 :: []) ∧ 0 ≤ (sTx 4 [.count 0]).txframe.length - (sTx 4 [.count 0]).txoff ∧
      (sTx 4 [.count 0]).txoff + 0 < (sTx 4 [.count 0]).txframe.length) ∧
    txHyps (sTx 4 [.count 10]) (.count 10 :: []) ∧ 10 ≤ (sTx 4 [.count 10]).txframe.length - (sTx 4 [.count 10]).txoff ∧
      (sTx 4 [.count 10]).txoff + 10 < (sTx 4 [.count 10]).txframe.length := by decide
/-- `c` = 11 leaves none. -/
theorem witness_WriteTurnOffersTheRemainder_last :
    txHyps (sTx 4 [.count 11]) (.count 11 :: []) ∧ 11 ≤ (sTx 4 [.count 11]).txframe.length - (sTx 4 [.count 11]).txoff ∧
      (sTx 4 [.count 11]).txoff + 11 = (sTx 4 [.count 11]).txframe.length := by decide
/-- T5's second write, and one on a closed channel. -/
theorem witness_FailedWriteBreaksTheBus_fail : txHyps (sTx 5 [.fail]) (.fail :: []) := by decide
/-- A SEND in flight whose channel the host has closed. -/
def sTxClosed : State := { sTx 5 [] with chan := { Channel.fresh with isOpen := false } }
theorem witness_FailedWriteBreaksTheBus_closed :
    sTxClosed.cmdIssued = false ∧ sTxClosed.inputs = .txTurn :: [] ∧ sTxClosed.txBusy = true ∧
      sTxClosed.txoff < sTxClosed.txframe.length ∧ sTxClosed.chan.writable = false := by decide

/-- T2: SEND of F1, accepted as 4, 0, 7 and 4 bytes. -/
def sFlush : State :=
  { sOp op1 with cmd := 5, cmdIssued := true, chan := { Channel.fresh with writes := [.count 4, .count 0, .count 7, .count 4] } }
theorem witness_SendFlushesTheWholeFrame :
    sFlush.cmdIssued = true ∧ sFlush.cmd = 5 ∧ sFlush.inputs = [] ∧ sFlush.txBusy = false ∧ sFlush.broken = false ∧
      sFlush.msgIn.id.toNat ≤ 536870911 ∧ sFlush.msgIn.len.toNat ≤ 8 ∧ tsValid sFlush.msgIn.ts = true ∧
      sFlush.chan.kind = .external ∧ sFlush.chan.isOpen = true ∧ sFlush.chan.writeFailed = false ∧
      sFlush.chan.readFailed = false ∧
      sFlush.chan.writes = [4, 0, 7, 4].map WriteAnswer.count ++ [] ∧ [4, 0, 7, 4].sum = 11 + sFlush.msgIn.len.toNat ∧
      ∀ n : Fin 4, ([4, 0, 7, 4].take n).sum < 11 + sFlush.msgIn.len.toNat := by decide +kernel
theorem witness_RecvStartsTheEngine :
    (State.reset.rxBusy = false ∧ State.reset.broken = false) ∧ (sRx [] [] []).rxBusy = true ∧
      ({ State.reset with broken := true } : State).rxBusy = false ∧ ({ State.reset with broken := true } : State).broken = true := by
  decide

/-- What the statements about a turn of the RX engine that finds no frame and reads ask of a state. -/
abbrev rxHyps (s : State) (rs : List ReadAnswer) : Prop :=
  s.cmdIssued = false ∧ s.inputs = .rxTurn :: [] ∧ s.rxBusy = true ∧ s.expired = false ∧
    decodeBuffer s.build.earlyDlcReject s.rxbuf s.sp = (.needMore .frame, b1.take 14, 0) ∧
    s.chan.kind = .external ∧ s.chan.readable = true ∧ s.chan.reads = rs
/-- F1 but its END byte in the buffer, MAX_READ = 2, and two bytes to come. -/
def sRead (rs : List ReadAnswer) : State :=
  { sRx (b1.take 14) rs [0xBB, 0x00] with build := { maxRead := ⟨2, by decide⟩, earlyDlcReject := false } }
/-- `k` = 0, and `k` = MAX_READ = all of the stream. -/
theorem witness_ReadTurnAppendsTheAnswer :
    (rxHyps (sRead [.bytes 0 true]) (.bytes 0 true :: []) ∧ 0 ≤ (sRead [.bytes 0 true]).build.maxRead.val ∧
      0 ≤ (sRead [.bytes 0 true]).chan.rxStream.length) ∧
    rxHyps (sRead [.bytes 2 false]) (.bytes 2 false :: []) ∧ 2 ≤ (sRead [.bytes 2 false]).build.maxRead.val ∧
      2 ≤ (sRead [.bytes 2 false]).chan.rxStream.length := by decide
/-- A Zero RECV whose channel's script has run out. -/
theorem witness_ReadTurnAppendsTheAnswer_unscripted : rxHyps (sRead []) [] ∧ (sRead []).rxTimeout ≠ .infinite := by decide
/-- It does not block, and returns what the channel holds, up to MAX_READ (rule R119). -/
theorem test_zero_read_does_not_block : field (fun t => (t.rxbuf, t.expired, t.chan.rxStream)) (step (sRead [])) =
    some (b1.take 14 ++ [0xBB, 0x00], true, []) := by decide
theorem witness_ExpiredTurnTimesOut :
    ({ sRx (b1.take 14) [] [] with expired := true } : State).cmdIssued = false ∧
      ({ sRx (b1.take 14) [] [] with expired := true } : State).inputs = .rxTurn :: [] ∧
      ({ sRx (b1.take 14) [] [] with expired := true } : State).rxBusy = true ∧
      ({ sRx (b1.take 14) [] [] with expired := true } : State).expired = true ∧
      decodeBuffer false (b1.take 14) 0 = (.needMore .frame, b1.take 14, 0) := by decide
theorem witness_FailedReadBreaksTheBus_fail : rxHyps (sRead [.fail]) (.fail :: []) := by decide
/-- A RECV in flight whose channel the host has closed. -/
def sRxClosed : State := { sRead [] with chan := { Channel.fresh with isOpen := false } }
theorem witness_FailedReadBreaksTheBus_closed :
    sRxClosed.cmdIssued = false ∧ sRxClosed.inputs = .rxTurn :: [] ∧ sRxClosed.rxBusy = true ∧ sRxClosed.expired = false ∧
      decodeBuffer sRxClosed.build.earlyDlcReject sRxClosed.rxbuf sRxClosed.sp = (.needMore .frame, b1.take 14, 0) ∧
      sRxClosed.chan.readable = false := by decide
/-- V8's buffer. -/
theorem witness_RejectionIsSilent :
    (sRx (b1.take 14 ++ [0xBC]) [] []).cmdIssued = false ∧ (sRx (b1.take 14 ++ [0xBC]) [] []).inputs = .rxTurn :: [] ∧
      (sRx (b1.take 14 ++ [0xBC]) [] []).rxBusy = true ∧
      decode1 false (b1.take 14 ++ [0xBC]) 0 = (.corrupt, b1.take 14 ++ [0xBC], 1) := by decide

/-- A RECV issued over `buf`, with the channel's one answer. -/
def sPiece (buf stream : List Byte) (k : Nat) : State :=
  { State.reset with
    cmd := 6, cmdIssued := true, rxbuf := buf, chan := { Channel.fresh with rxStream := stream, reads := [.bytes k true] } }
/-- The first clause, at `k` = 11, the first value that leaves HeaderBuffered. -/
theorem witness_FrameInTwoPiecesIsDelivered_first :
    f1.data.length ≤ 8 ∧ 0 < 11 ∧ 11 < 11 + f1.data.length ∧ (sPiece [] b1 11).cmdIssued = true ∧ (sPiece [] b1 11).cmd = 6 ∧
      (sPiece [] b1 11).inputs = [] ∧ (sPiece [] b1 11).broken = false ∧ (sPiece [] b1 11).rxBusy = false ∧
      (sPiece [] b1 11).txBusy = false ∧ (sPiece [] b1 11).chan.kind = .external ∧ (sPiece [] b1 11).chan.isOpen = true ∧
      (sPiece [] b1 11).chan.writeFailed = false ∧ (sPiece [] b1 11).chan.readFailed = false ∧
      19 ≤ (sPiece [] b1 11).build.maxRead.val ∧ (sPiece [] b1 11).timeout.expiry true = true ∧ (sPiece [] b1 11).rxbuf = [] ∧
      (sPiece [] b1 11).sp = 0 ∧ (sPiece [] b1 11).chan.rxStream = encodeFields f1 ++ [] ∧
      (sPiece [] b1 11).chan.reads = .bytes 11 true :: [] := by decide
/-- What that run answers (P3's first RECV, at another cut). -/
theorem test_first_piece : field (fun t => (t.rxbuf, t.fsm, t.rxStatus)) (steps 3 (sPiece [] b1 11)) =
    some (b1.take 11, .headerBuffered, 3) := by decide
/-- The second clause, at `k` = 14, all but the END byte (Q9). -/
theorem witness_FrameInTwoPiecesIsDelivered_second :
    0 < 14 ∧ 14 < 11 + f1.data.length ∧ (sPiece (b1.take 14) [0xBB] 1).rxbuf = (encodeFields f1).take 14 ∧
      (sPiece (b1.take 14) [0xBB] 1).sp = 0 ∧
      (sPiece (b1.take 14) [0xBB] 1).chan.rxStream = (encodeFields f1).drop 14 ++ [] ∧
      (sPiece (b1.take 14) [0xBB] 1).chan.reads = .bytes (11 + f1.data.length - 14) true :: [] := by decide
theorem test_second_piece : field (fun t => (t.rxbuf, t.fsm, t.rxStatus, t.rxMsgOut.tsMs)) (steps 3 (sPiece (b1.take 14) [0xBB] 1)) =
    some ([], .idle, 2, 1500) := by decide +kernel

theorem witness_ResetAbandonsAndKeepsTheChannel :
    ({ sRx b1 [] [] with inputs := [.host .rst], broken := true } : State).cmdIssued = false ∧
      ({ sRx b1 [] [] with inputs := [.host .rst], broken := true } : State).inputs = .host .rst :: [] := by decide
/-- Each action, whatever its operand. -/
theorem witness_HostActionsWriteTheirRegister (a : HostAction) :
    ({ State.reset with inputs := [.host a] } : State).cmdIssued = false ∧
      ({ State.reset with inputs := [.host a] } : State).inputs = .host a :: [] := ⟨rfl, rfl⟩
theorem witness_LoopbackReturnsWhatWasWritten :
    ({ Channel.fresh with kind := .loopback } : Channel).kind = .loopback ∧
      ({ Channel.fresh with kind := .loopback } : Channel).writable = true ∧
      ({ Channel.fresh with kind := .loopback } : Channel).readable = true ∧
      ({ Channel.fresh with kind := .loopback } : Channel).writes = [] ∧
      ({ Channel.fresh with kind := .loopback, writes := [.count 15] } : Channel).writes = .count 15 :: [] ∧
      15 ≤ b1.length := by decide
/-- One more byte than is offered. -/
theorem witness_ChannelBreachStops_write : txHyps (sTx 4 [.count 12]) (.count 12 :: []) ∧
    (sTx 4 [.count 12]).txframe.length - (sTx 4 [.count 12]).txoff < 12 := by decide
/-- One more than MAX_READ; and, within MAX_READ, more than the stream holds. -/
theorem witness_ChannelBreachStops_read :
    (rxHyps (sRead [.bytes 3 false]) (.bytes 3 false :: []) ∧ (sRead [.bytes 3 false]).build.maxRead.val < 3) ∧
    rxHyps (sRx (b1.take 14) [.bytes 1 false] []) (.bytes 1 false :: []) ∧
      (sRx (b1.take 14) [.bytes 1 false] []).chan.rxStream.length < 1 := by decide
theorem witness_EnginesWaitWhenIdleOrBlocked_idle :
    (({ State.reset with inputs := [.txTurn] } : State).cmdIssued = false ∧
      ({ State.reset with inputs := [.txTurn] } : State).inputs = .txTurn :: [] ∧
      ({ State.reset with inputs := [.txTurn] } : State).txBusy = false) ∧
    ({ State.reset with inputs := [.rxTurn] } : State).cmdIssued = false ∧
      ({ State.reset with inputs := [.rxTurn] } : State).inputs = .rxTurn :: [] ∧
      ({ State.reset with inputs := [.rxTurn] } : State).rxBusy = false := by decide
theorem witness_EnginesWaitWhenIdleOrBlocked_blocked : txHyps (sTx 4 []) [] ∧
    rxHyps { sRead [] with rxTimeout := .infinite } [] ∧
      ({ sRead [] with rxTimeout := .infinite } : State).rxTimeout = .infinite := by decide

/-- A state in mid-SEND that has the invariant, and its step. -/
theorem witness_EveryStepKeepsTheInvariant :
    (sTx 4 [.count 7]).Inv ∧ ∃ t, step (sTx 4 [.count 7]) = .next t :=
  ⟨⟨by decide, by decide, fun _ => ⟨by decide, by decide, by decide, .frameD4 f1, by decide⟩, by decide, by decide,
    fun h => absurd h (by decide), fun h => absurd h (by decide)⟩, _, rfl⟩
theorem not_resetNext {s : State} (h : s.inputs = .txTurn :: [] ∨ s.inputs = .rxTurn :: []) : ¬ s.resetNext := by
  rintro ⟨-, ⟨rest, hr⟩ | ⟨ch, rest, hr⟩⟩ <;> rcases h with h | h <;> rw [hr] at h <;> simp at h
theorem witness_BrokenIsSticky :
    ({ sTx 4 [.count 7] with broken := true } : State).broken = true ∧
      (∃ t, step { sTx 4 [.count 7] with broken := true } = .next t) ∧
      ¬ ({ sTx 4 [.count 7] with broken := true } : State).resetNext := ⟨rfl, ⟨_, rfl⟩, not_resetNext (.inl rfl)⟩
/-- A reset; a step without a RECV; a RECV that reads behind what it holds; one that holds noise; one that delivers. -/
theorem witness_BufferOnlyDropsAndAppends_reset :
    ({ sRx b1 [] [] with inputs := [.host .rst] } : State).resetNext ∧
      field (fun t => t.rxbuf) (step { sRx b1 [] [] with inputs := [.host .rst] }) = some [] :=
  ⟨⟨rfl, .inl ⟨[], rfl⟩⟩, rfl⟩
theorem witness_BufferOnlyDropsAndAppends_idle :
    (∃ t, step (sTx 4 [.count 7]) = .next t) ∧ (sTx 4 [.count 7]).rxBusy = false ∧ ¬ (sTx 4 [.count 7]).resetNext :=
  ⟨⟨_, rfl⟩, rfl, not_resetNext (.inl rfl)⟩
theorem witness_BufferOnlyDropsAndAppends_receive :
    (field (fun t => t.rxbuf) (step (sRead [.bytes 1 true])) = some b1 ∧ ¬ (sRead [.bytes 1 true]).resetNext) ∧
    (field (fun t => t.rxbuf) (step (sRx [0x55] [.bytes 1 true] [0xAA])) = some [0xAA] ∧
      ¬ (sRx [0x55] [.bytes 1 true] [0xAA]).resetNext) ∧
    field (fun t => t.rxbuf) (step (sRx ([0x13] ++ b1 ++ [0x55]) [] [])) = some [0x55] ∧
      ¬ (sRx ([0x13] ++ b1 ++ [0x55]) [] []).resetNext :=
  ⟨⟨by decide, not_resetNext (.inr rfl)⟩, ⟨by decide, not_resetNext (.inr rfl)⟩, by decide +kernel, not_resetNext (.inr rfl)⟩
theorem witness_EveryByteReadIsAppended :
    (field (fun t => t.rxbuf) (step (sRx [] [.bytes 1 true] [0xAA])) = some [0xAA]) ∧
      ¬ (sRx [] [.bytes 1 true] [0xAA]).resetNext := ⟨by decide, not_resetNext (.inr rfl)⟩
theorem witness_TransmitStreamOnlyGrows :
    (∃ t, step (sTx 4 [.count 7]) = .next t) ∧ ¬ (sTx 4 [.count 7]).resetNext := ⟨⟨_, rfl⟩, not_resetNext (.inl rfl)⟩
/-- A command issued over the reset state with an operand. -/
def sCmd (c : BitVec 4) (m : MsgIn) : State := { sOp m with cmd := c, cmdIssued := true }
theorem not_resetNext_of_issued {s : State} (h : s.cmdIssued = true) : ¬ s.resetNext := fun hr => by
  rw [hr.1] at h; cases h
/-- MSG.NEW, MSG.EQ, ENCODE: each writes STATUS and its own result. -/
theorem witness_ResultsChangeOnlyWithTheirOutcome_host :
    (field (fun t => (t.status, t.msgOut.len)) (step (sCmd 1 opMax)) = some (2, 8) ∧ ¬ (sCmd 1 opMax).resetNext) ∧
    (field (fun t => (t.status, t.eqOut)) (step { sCmd 2 opMax with msgIn2 := opMax }) = some (1, true) ∧
      ¬ ({ sCmd 2 opMax with msgIn2 := opMax } : State).resetNext) ∧
    field (fun t => (t.status, t.frameOut.len)) (step (sCmd 3 opMax)) = some (1, 19) ∧ ¬ (sCmd 3 opMax).resetNext :=
  ⟨⟨by decide +kernel, not_resetNext_of_issued rfl⟩, ⟨by decide +kernel, not_resetNext_of_issued rfl⟩,
    by decide +kernel, not_resetNext_of_issued rfl⟩
/-- DECODE with a frame, and with a part of one. -/
theorem witness_ResultsChangeOnlyWithTheirOutcome_decode :
    (field (fun t => (t.status, t.decOut.consumed, t.msgOut.len)) (step { sCmd 4 opId with decIn := ⟨b1, 0⟩ }) =
        some (2, 15, 4) ∧ ¬ ({ sCmd 4 opId with decIn := ⟨b1, 0⟩ } : State).resetNext) ∧
    field (fun t => (t.status, t.decOut.buf)) (step { sCmd 4 opId with decIn := ⟨b1.take 14, 0⟩ }) = some (4, b1.take 14) ∧
      ¬ ({ sCmd 4 opId with decIn := ⟨b1.take 14, 0⟩ } : State).resetNext :=
  ⟨⟨by decide +kernel, not_resetNext_of_issued rfl⟩, by decide, not_resetNext_of_issued rfl⟩
/-- The engines' registers: a SEND and a RECV that start nothing, a SEND that ends, a RECV that delivers. -/
theorem witness_ResultsChangeOnlyWithTheirOutcome_engines :
    (field (fun t => (t.txStatus, t.txErrTag)) (step (sCmd 5 opId)) = some (5, 1) ∧ ¬ (sCmd 5 opId).resetNext) ∧
    (field (fun t => t.rxStatus) (step { sCmd 6 opId with broken := true }) = some 6 ∧
      ¬ ({ sCmd 6 opId with broken := true } : State).resetNext) ∧
    (field (fun t => t.txStatus) (step (sTx 4 [.count 11])) = some 1 ∧ ¬ (sTx 4 [.count 11]).resetNext) ∧
    field (fun t => (t.rxMsgOut.id, t.rxStatus)) (step (sRx b1 [] [])) = some (0x123, 2) ∧ ¬ (sRx b1 [] []).resetNext :=
  ⟨⟨by decide, not_resetNext_of_issued rfl⟩, ⟨by decide, not_resetNext_of_issued rfl⟩, ⟨by decide, not_resetNext (.inl rfl)⟩,
    by decide +kernel, not_resetNext (.inr rfl)⟩
theorem witness_EnginesWriteDisjointState :
    ((sTx 4 [.count 7]).cmdIssued = false ∧ (sTx 4 [.count 7]).chan.kind = .external ∧
      (sTx 4 [.count 7]).inputs = .txTurn :: [] ∧ (nextState? (step (sTx 4 [.count 7]))).isSome = true) ∧
    (sRx b1 [] []).cmdIssued = false ∧ (sRx b1 [] []).chan.kind = .external ∧ (sRx b1 [] []).inputs = .rxTurn :: [] ∧
      (nextState? (step (sRx b1 [] []))).isSome = true := by decide +kernel
/-- Both engines in flight: each order of the turns answers, and the two agree in what they send and deliver. -/
def sBoth (i : List Input) : State := { sTx 4 [.count 7] with inputs := i, rxBusy := true, rxbuf := b1 }
theorem witness_EngineTurnsCommute : (sBoth []).cmdIssued = false ∧ (sBoth []).chan.kind = .external ∧
    (nextState? (steps 2 (sBoth [.txTurn, .rxTurn]))).isSome = true ∧
    (nextState? (steps 2 (sBoth [.rxTurn, .txTurn]))).isSome = true := by decide +kernel

theorem witness_RecreateResetsAndInstallsTheChannel (c : NewChannel) :
    ({ sRx b1 [] [] with inputs := [.host (.recreate c)], broken := true } : State).cmdIssued = false ∧
      ({ sRx b1 [] [] with inputs := [.host (.recreate c)], broken := true } : State).inputs = .host (.recreate c) :: [] :=
  ⟨rfl, rfl⟩
/-- A SEND of F1 and a RECV in flight on a loopback channel that holds one byte. -/
def sLoop (i : Input) (ws : List WriteAnswer) (rs : List ReadAnswer) : State :=
  { sTx 4 [] with
    inputs := [i], rxBusy := true, rxbuf := b1.take 14
    chan := { Channel.fresh with kind := .loopback, txStream := [0xAA, 0xBB], rxStream := [0xBB], writes := ws, reads := rs } }
theorem witness_LoopbackTurnsAnswerAtOnce_write :
    ((sLoop .txTurn [.count 10] []).cmdIssued = false ∧ (sLoop .txTurn [.count 10] []).chan.kind = .loopback ∧
      (sLoop .txTurn [.count 10] []).chan.isOpen = true ∧ (sLoop .txTurn [.count 10] []).chan.writeFailed = false ∧
      (sLoop .txTurn [.count 10] []).inputs = .txTurn :: [] ∧
      (sLoop .txTurn [.count 10] []).txBusy = true ∧ (sLoop .txTurn [.count 10] []).chan.writes = .count 10 :: [] ∧
      (sLoop .txTurn [.count 10] []).txoff + 10 < (sLoop .txTurn [.count 10] []).txframe.length) ∧
    (sLoop .txTurn [] []).txoff < (sLoop .txTurn [] []).txframe.length ∧ (sLoop .txTurn [] []).chan.writes = [] ∧
    (sLoop .txTurn [.fail] []).chan.writes.head? = some .fail ∧
    (sLoop .txTurn [.count 11] []).chan.writes.head? =
      some (.count ((sLoop .txTurn [.count 11] []).txframe.length - (sLoop .txTurn [.count 11] []).txoff)) := by decide
theorem witness_LoopbackTurnsAnswerAtOnce_read :
    (sLoop .rxTurn [] []).cmdIssued = false ∧ (sLoop .rxTurn [] []).chan.kind = .loopback ∧
      (sLoop .rxTurn [] []).chan.isOpen = true ∧ (sLoop .rxTurn [] []).chan.readFailed = false ∧
      (sLoop .rxTurn [] []).inputs = .rxTurn :: [] ∧
      (sLoop .rxTurn [] []).rxBusy = true ∧ (sLoop .rxTurn [] []).expired = false ∧
      decodeBuffer (sLoop .rxTurn [] []).build.earlyDlcReject (sLoop .rxTurn [] []).rxbuf (sLoop .rxTurn [] []).sp =
        (.needMore .frame, b1.take 14, 0) := by decide
theorem ne_fault {r : Result} (h : (nextState? r).isSome = true) : r ≠ .fault .channelBreach := by
  rintro rfl; cases h
/-- Zero with one read of its script unused, and Finite with a script of one answer before the deadline. -/
theorem witness_BoundedReceiveEnds :
    ((sRead [.bytes 0 true, .fail]).cmdIssued = false ∧ (sRead [.bytes 0 true, .fail]).rxBusy = true ∧
      (sRead [.bytes 0 true, .fail]).rxTimeout = .zero ∧
      steps 2 { sRead [.bytes 0 true, .fail] with inputs := .rxTurn :: .rxTurn :: [] } ≠ .fault .channelBreach) ∧
    ({ sRead [.bytes 0 false] with rxTimeout := .finite ⟨1, by decide⟩ } : State).rxTimeout ≠ .infinite ∧
      steps 3 { sRead [.bytes 0 false] with
        rxTimeout := .finite ⟨1, by decide⟩, inputs := List.replicate 3 .rxTurn ++ [] } ≠ .fault .channelBreach :=
  ⟨⟨rfl, rfl, rfl, ne_fault (by decide +kernel)⟩, by decide, ne_fault (by decide +kernel)⟩

/-- A block whose channel has failed a write, with `inputs` to come. -/
def sDown (inputs : List Input) : State :=
  { State.reset with inputs := inputs, broken := true, chan := { Channel.fresh with rxStream := b1, writeFailed := true } }
theorem witness_ResetDoesNotMendTheChannel :
    ((sDown [.host .rst, .host (.setTimeout .zero), .host (.issue 6), .rxTurn]).cmdIssued = false ∧
      (sDown [.host .rst, .host (.setTimeout .zero), .host (.issue 6), .rxTurn]).chan.writeFailed = true) ∧
    (sDown [.host .rst, .host (.setMsgIn opMax), .host (.issue 5), .txTurn]).cmdIssued = false ∧
      (sDown [.host .rst, .host (.setMsgIn opMax), .host (.issue 5), .txTurn]).chan.writeFailed = true ∧
      opMax.id.toNat ≤ 536870911 ∧ opMax.len.toNat ≤ 8 ∧ tsValid opMax.ts = true := by decide +kernel
/-- The read does not hand over what waits in the channel (rule R161). -/
theorem test_reset_does_not_mend :
    field (fun t => (t.broken, t.rxStatus, t.rxbuf))
      (steps 5 (sDown [.host .rst, .host (.setTimeout .zero), .host (.issue 6), .rxTurn])) = some (true, 6, []) := by
  decide

end Sys2Proof.Tests
end

section
/-! PROOFS. The statements of 00_scope.md: big-endian fields (rules R10, R42), the valid timestamps (rules R11, R80), and
engines that are idle or blocked (rules R5, R114, R127, R176). -/

namespace Sys2Proof

/-! ### Where a frame holds its fields (rules R10, R42) -/

/-- A byte put below a word: the word moves up eight bits. -/
theorem toNat_append_byte {n : Nat} (x : BitVec n) (b : Byte) : (x ++ b).toNat = x.toNat * 2 ^ 8 + b.toNat := by
  rw [BitVec.toNat_append, ← Nat.shiftLeft_add_eq_or_of_lt b.isLt, Nat.shiftLeft_eq]

/-- The number four bytes make, the most significant first (rule R10). -/
theorem be32_toNat (b0 b1 b2 b3 : Byte) :
    (be32 b0 b1 b2 b3).toNat = b0.toNat * 2 ^ 24 + b1.toNat * 2 ^ 16 + b2.toNat * 2 ^ 8 + b3.toNat := by
  simp only [be32, toNat_append_byte]
  ring

/-- `timestamp_ms` stands at offsets 1 to 4 (rule R42). -/
theorem slice_encodeFields_ms (f : Frame) : Machine.slice (encodeFields f) 1 4 = bytesBe32 f.ms := by
  rw [encodeFields_eq]; rfl

/-- The identifier stands at offsets 6 to 9 (rule R42). -/
theorem slice_encodeFields_id (f : Frame) :
    Machine.slice (encodeFields f) 6 4 = bytesBe32 (f.id.setWidth 32) := by
  rw [encodeFields_eq]; rfl

/-- From offset 10 on stand the payload and END (rules R42, R66, R67). -/
theorem drop_encodeFields (f : Frame) : (encodeFields f).drop 10 = f.data ++ [Config.endByte] := by
  rw [encodeFields_eq]; rfl

/-- `data[k]` stands at offset `10 + k` (rule R42). -/
theorem encodeFields_getElem?_data (f : Frame) {k : Nat} (hk : k < f.data.length) :
    (encodeFields f)[10 + k]? = f.data[k]? := by
  rw [← List.getElem?_drop, drop_encodeFields, List.getElem?_append_left hk]

/-- Settles O4: both directions of rule R10, and the offsets of rule R42 field by field. -/
theorem wireFieldsAreBigEndian : Obligations.WireFieldsAreBigEndian :=
  ⟨fun b0 b1 b2 b3 => ⟨be32_toNat b0 b1 b2 b3, bytesBe32_be32 b0 b1 b2 b3⟩,
    fun v => ⟨rfl, be32_bytesBe32 v⟩,
    fun f _ => ⟨slice_encodeFields_ms f, slice_encodeFields_id f, fun _ hk => encodeFields_getElem?_data f hk⟩⟩

end Sys2Proof

namespace Sys2Proof.Machine

/-! ### Binary64 magnitudes are ordered as their bit patterns (rule R11) -/

namespace Float64

theorem frac_lt (x : F64) : frac x < 2 ^ 52 := (x.extractLsb' 0 52).isLt

/-- The sign bit splits the bit patterns in two halves. -/
theorem sign_eq_true_iff (x : F64) : sign x = true ↔ 2 ^ 63 ≤ x.toNat := by
  have hmsb : sign x = x.msb := (BitVec.msb_eq_getLsbD_last x).symm
  rw [hmsb, BitVec.msb_eq_decide, decide_eq_true_iff]

/-- The 63 bits below the sign are exponent and fraction. -/
theorem toNat_mod_eq (x : F64) : x.toNat % 2 ^ 63 = expField x * 2 ^ 52 + frac x := by
  simp only [expField, frac, BitVec.extractLsb'_toNat, Nat.shiftRight_eq_div_pow]
  omega

/-- A NaN's bits lie above those of infinity. -/
theorem isNaN_eq_true_iff (x : F64) : isNaN x = true ↔ 2047 * 2 ^ 52 < x.toNat % 2 ^ 63 := by
  have he : expField x < 2 ^ 11 := (x.extractLsb' 52 11).isLt
  have hf := frac_lt x
  rw [toNat_mod_eq]
  simp only [isNaN, Bool.and_eq_true, beq_iff_eq, bne_iff_ne]
  omega

/-- A magnitude lies below the least one of the next exponent. -/
theorem mag_lt_next_binade (x : F64) : mag x < 2 ^ 52 * 2 ^ expField x := by
  have hf := frac_lt x
  unfold mag
  split
  case isTrue h => rw [h]; omega
  case isFalse h =>
    calc (2 ^ 52 + frac x) * 2 ^ (expField x - 1)
        < (2 ^ 52 * 2) * 2 ^ (expField x - 1) := Nat.mul_lt_mul_of_pos_right (by omega) (by positivity)
      _ = 2 ^ 52 * 2 ^ expField x := by rw [Nat.mul_assoc, mul_pow_sub_one h]

/-- The least magnitude of a normal number's exponent. -/
theorem binade_le_mag {x : F64} (h : expField x ≠ 0) : 2 ^ 52 * 2 ^ (expField x - 1) ≤ mag x := by
  rw [mag, if_neg h]
  exact Nat.mul_le_mul_right _ (Nat.le_add_right _ _)

/-- A larger exponent is a larger magnitude; within one exponent the fraction decides. -/
theorem mag_lt_of_bits_lt {x y : F64} (h : x.toNat % 2 ^ 63 < y.toNat % 2 ^ 63) : mag x < mag y := by
  rw [toNat_mod_eq, toNat_mod_eq] at h
  have hx := frac_lt x
  have hy := frac_lt y
  rcases Nat.lt_trichotomy (expField x) (expField y) with he | he | he
  · calc mag x < 2 ^ 52 * 2 ^ expField x := mag_lt_next_binade x
      _ ≤ 2 ^ 52 * 2 ^ (expField y - 1) := Nat.mul_le_mul_left _ (Nat.pow_le_pow_right (by decide) (by omega))
      _ ≤ mag y := binade_le_mag (by omega)
  · have hfrac : frac x < frac y := by omega
    unfold mag
    rw [he]
    split
    · exact hfrac
    · exact Nat.mul_lt_mul_of_pos_right (by omega) (by positivity)
  · omega

theorem mag_eq_of_bits_eq {x y : F64} (h : x.toNat % 2 ^ 63 = y.toNat % 2 ^ 63) : mag x = mag y := by
  rw [toNat_mod_eq, toNat_mod_eq] at h
  have hx := frac_lt x
  have hy := frac_lt y
  have he : expField x = expField y := by omega
  have hf : frac x = frac y := by omega
  rw [mag, mag, he, hf]

/-- Magnitudes compare as the 63 bits below the sign do. -/
theorem mag_le_mag_iff (x y : F64) : mag x ≤ mag y ↔ x.toNat % 2 ^ 63 ≤ y.toNat % 2 ^ 63 := by
  rcases Nat.lt_trichotomy (x.toNat % 2 ^ 63) (y.toNat % 2 ^ 63) with h | h | h
  · have := mag_lt_of_bits_lt h; omega
  · have := mag_eq_of_bits_eq h; omega
  · have := mag_lt_of_bits_lt h; omega

end Float64

open Float64

/-! ### The valid timestamps (rule R80) -/

/-- The two comparisons of rule R80 on signed values. -/
theorem tsValid_iff_value (t : F64) :
    tsValid t = true ↔ isNaN t = false ∧ 0 ≤ value t ∧ value t ≤ mag Config.tsMax := by
  have hzero : isNaN 0 = false ∧ value 0 = 0 := by decide
  have hmax : isNaN Config.tsMax = false ∧ sign Config.tsMax = false := by decide
  simp only [tsValid, Float64.le, hzero.1, hzero.2, hmax.1, value_of_sign hmax.2, Bool.and_eq_true, Bool.not_eq_true',
    decide_eq_true_iff]
  tauto

/-- Without the sign bit: the bit patterns up to the upper bound. -/
theorem tsValid_iff_of_nonneg {t : F64} (h : sign t = false) :
    tsValid t = true ↔ t.toNat ≤ Config.tsMax.toNat := by
  have hlt : t.toNat < 2 ^ 63 := by
    by_contra hge
    rw [(sign_eq_true_iff t).mpr (by omega)] at h
    cases h
  have hnan : isNaN t = false ↔ ¬ 2047 * 2 ^ 52 < t.toNat % 2 ^ 63 := by
    rw [← isNaN_eq_true_iff, Bool.not_eq_true]
  have hmax : Config.tsMax.toNat = 0x4150624DD2E147AE := rfl
  rw [tsValid_iff_value, value_of_sign h, hnan, Int.ofNat_le, mag_le_mag_iff, hmax]
  omega

/-- With the sign bit: `-0.0` alone. -/
theorem tsValid_iff_of_neg {t : F64} (h : sign t = true) : tsValid t = true ↔ t = 0x8000000000000000 := by
  constructor
  · intro hv
    obtain ⟨-, hpos, -⟩ := (tsValid_iff_value t).mp hv
    have hmag : mag t ≤ mag (0 : F64) := by
      simp only [value, h, if_true] at hpos
      omega
    have hbits : t.toNat % 2 ^ 63 ≤ 0 := (mag_le_mag_iff t 0).mp hmag
    have hsign : 2 ^ 63 ≤ t.toNat := (sign_eq_true_iff t).mp h
    apply BitVec.eq_of_toNat_eq
    change t.toNat = 0x8000000000000000
    have := t.isLt
    omega
  · rintro rfl
    decide

/-- Settles O8, by the sign bit: among the other patterns the order of magnitudes is that of the bits. -/
theorem validTimestampBitPatterns : Obligations.ValidTimestampBitPatterns := by
  intro t
  cases h : sign t with
  | false =>
    have hne : t ≠ 0x8000000000000000 := by rintro rfl; cases h
    rw [tsValid_iff_of_nonneg h, or_iff_left hne]
    rfl
  | true =>
    have hge : 2 ^ 63 ≤ t.toNat := (sign_eq_true_iff t).mp h
    rw [tsValid_iff_of_neg h, or_iff_right (by omega)]

/-! ### Engines that are idle or blocked (rules R5, R114, R127, R176) -/

/-- A `ChWrite` blocks only on an open external channel that has not answered (rules R47, R114). -/
theorem chWrite_waiting_iff {ch : Channel} {bs : List Byte} :
    chWrite ch bs = .waiting ↔ ch.writable = true ∧ ch.kind = .external ∧ ch.writes = [] := by
  unfold chWrite Channel.acceptCount
  (repeat' split) <;> simp_all

/-- The step is the TX engine's turn when the schedule says so (rule R152). -/
theorem step_of_txTurn {s : State} {rest : List Input} (hc : s.cmdIssued = false) (hi : s.inputs = .txTurn :: rest) :
    step s = txTurn { s with inputs := rest } := by
  simp [step, fetch, hc, hi]

/-- The step is the RX engine's turn when the schedule says so (rule R152). -/
theorem step_of_rxTurn {s : State} {rest : List Input} (hc : s.cmdIssued = false) (hi : s.inputs = .rxTurn :: rest) :
    step s = (rxTurn { s with inputs := rest }).result := by
  rw [step_eq]
  simp [fetch, hc, hi]

/-- A TX engine with nothing in flight takes no step (rule R5). -/
theorem txTurn_of_idle {s : State} (h : s.txBusy = false) : txTurn s = .next s := if_pos h

/-- An RX engine with nothing in flight takes no step (rule R5). -/
theorem rxTurn_of_idle {s : State} (h : s.rxBusy = false) : (rxTurn s).result = .next s := by
  rw [rxTurn_result, if_pos h]

/-- A SEND with bytes left waits while its `ChWrite` has not answered (rule R114). -/
theorem txTurn_of_waiting {s : State} (hb : s.txBusy = true) (ho : s.txoff < s.txframe.length)
    (hw : chWrite s.chan (s.txframe.drop s.txoff) = .waiting) : txTurn s = .next s := by
  simp [txTurn, hb, Nat.not_le.mpr ho, hw]

/-- A RECV that needs more bytes waits while its `ChRead` has not answered (rule R127). -/
theorem rxNeedMore_of_waiting {s : State} (he : s.expired = false)
    (hr : chRead s.chan s.build.maxRead.val s.rxTimeout = .waiting) : rxNeedMore s = .next s := by
  simp [rxNeedMore, he, hr]

/-- A turn of the RX engine whose DECODE answers NeedMoreData (rules R118, R120, R125). -/
theorem rxTurn_of_needMore {s : State} {arm : NeedArm} {buf : List Byte} {pos : Nat} (hb : s.rxBusy = true)
    (hd : decodeBuffer s.build.earlyDlcReject s.rxbuf s.sp = (.needMore arm, buf, pos)) :
    (rxTurn s).result = rxNeedMore { s with rxbuf := buf, sp := pos, fsm := arm.fsm } := by
  rw [rxTurn_result, if_neg (by simp [hb]), hd]

/-- `FsmAfter` on the NeedMoreData arms (rule R125). -/
theorem needArm_fsm_eq (arm : NeedArm) : arm.fsm = if arm = .frame then .headerBuffered else .syncing := by
  cases arm <;> rfl

/-- Settles O46: an idle engine's turn answers its own state, and so does one whose channel call is waiting. -/
theorem enginesWaitWhenIdleOrBlocked : Obligations.EnginesWaitWhenIdleOrBlocked := by
  intro s rest hc
  refine ⟨fun hi hb => ?txIdle, fun hi hb => ?rxIdle, fun hi hb ho hk hw hs => ?txBlocked,
    fun arm buf pos hi hb he hd hk hr hs ht => ?rxBlocked⟩
  case txIdle => exact (step_of_txTurn hc hi).trans (txTurn_of_idle hb)
  case rxIdle => exact (step_of_rxTurn hc hi).trans (rxTurn_of_idle hb)
  case txBlocked =>
    exact (step_of_txTurn hc hi).trans (txTurn_of_waiting hb ho (chWrite_waiting_iff.mpr ⟨hw, hk, hs⟩))
  case rxBlocked =>
    rw [← needArm_fsm_eq]
    calc step s = (rxTurn { s with inputs := rest }).result := step_of_rxTurn hc hi
      _ = rxNeedMore { s with inputs := rest, rxbuf := buf, sp := pos, fsm := arm.fsm } := rxTurn_of_needMore hb hd
      _ = .next _ := rxNeedMore_of_waiting he (chRead_waiting_iff.mpr ⟨ht, hr, hk, hs⟩)

end Sys2Proof.Machine
end

section
/-! PROOFS. The statements of 10_state.md: what a step can do, agent by agent; reset, recovery and host actions (rules R26,
R33, R160, R163); the invariant (rule R31); `broken` (rule R25); the buffer (rules R22, R44); the result registers (rule
R27); dead bytes (rule R32). -/

namespace Sys2Proof.Machine

/-! ### What a step can do, agent by agent (rules R5, R73, R152) -/

/-- What the command of code `c`, accepted in `s`, can answer (rule R73). -/
inductive CommandStep (s : State) : BitVec 4 → State → Prop
  | nop : CommandStep s 0 s
  | rangeError {c : BitVec 4} (hc : c = 1 ∨ c = 3) (v : RangeTag) : CommandStep s c (s.endOp .host .rangeError (some v))
  | msgNew (out : MsgOut) (n : Nat) : CommandStep s 1 { s.endOp .host .message none with msgOut := out, free := n }
  | msgEq (e : Bool) (n : Nat) : CommandStep s 2 { s.endOp .host .ok none with eqOut := e, free := n }
  | encode (out : FrameOut) (n : Nat) : CommandStep s 3 { s.endOp .host .ok none with frameOut := out, free := n }
  | decodeNeedMore (buf : List Byte) (pos : Nat) :
      CommandStep s 4 { s.endOp .host .needMoreData none with decOut := { s.decOut with buf := buf, pos := pos } }
  | decodeFrame (out : MsgOut) (dec : DecOut) (n : Nat) :
      CommandStep s 4 { s.endOp .host .message none with msgOut := out, decOut := dec, free := n }
  | sendRefused : CommandStep s 5 (s.refuse .tx)
  | sendBroken : CommandStep s 5 (s.endOp .tx .transportError none)
  | sendRangeError (v : RangeTag) : CommandStep s 5 (s.endOp .tx .rangeError (some v))
  | sendStarts (bytes : List Byte) (he : encodeMessage s.operand = .ok bytes) :
      CommandStep s 5 { s with txframe := bytes, txoff := 0, txBusy := true, chan := s.chan.beginSend }
  | recvRefused : CommandStep s 6 (s.refuse .rx)
  | recvBroken : CommandStep s 6 (s.endOp .rx .transportError none)
  | recvStarts :
      CommandStep s 6 { s with rxBusy := true, expired := false, rxTimeout := s.timeout, chan := s.chan.beginRecv }
  | reserved {c : BitVec 4} (hc : 7 ≤ c.toNat) : CommandStep s c (s.refuse .host)

/-- What a host action other than a reset can answer (rules R26, R47). -/
inductive HostWrite (s : State) : State → Prop
  | msgIn (m : MsgIn) : HostWrite s { s with msgIn := m }
  | msgIn2 (m : MsgIn) : HostWrite s { s with msgIn2 := m }
  | timeout (t : Timeout) : HostWrite s { s with timeout := t }
  | decIn (d : DecIn) : HostWrite s { s with decIn := d }
  | issue (c : BitVec 4) : HostWrite s { s with cmd := c, cmdIssued := true }
  | close : HostWrite s { s with chan := { s.chan with isOpen := false } }

/-- What a turn of the TX engine can answer (rules R110 to R112). -/
inductive TxStep (s : State) : State → Prop
  | stays : TxStep s s
  | done (hb : s.txBusy = true) : TxStep s (sendDone s)
  | failed (hb : s.txBusy = true) (ch : Channel) (hw : chWrite s.chan (s.txframe.drop s.txoff) = .failed ch) :
      TxStep s { (s.breakChannel ch).endOp .tx .transportError none with txBusy := false }
  | goesOn (hb : s.txBusy = true) (c : Nat) (ch : Channel)
      (hw : chWrite s.chan (s.txframe.drop s.txoff) = .accepted c ch) (hl : s.txoff + c < s.txframe.length) :
      TxStep s { s with chan := ch, txoff := s.txoff + c }
  | ends (hb : s.txBusy = true) (c : Nat) (ch : Channel)
      (hw : chWrite s.chan (s.txframe.drop s.txoff) = .accepted c ch) :
      TxStep s (sendDone { s with chan := ch, txoff := s.txoff + c })

/-- What the RX engine can answer after a DECODE without a frame (rules R120 to R124). -/
inductive ReadStep (s : State) : State → Prop
  | waits : ReadStep s s
  | timedOut : ReadStep s { s.endOp .rx .timedOut none with rxBusy := false }
  | failed (ch : Channel) (hr : chRead s.chan s.build.maxRead.val s.rxTimeout = .failed ch) :
      ReadStep s { (s.breakChannel ch).endOp .rx .transportError none with rxBusy := false }
  | reads (he : s.expired = false) (bs : List Byte) (e : Bool) (ch : Channel)
      (hr : chRead s.chan s.build.maxRead.val s.rxTimeout = .bytes bs e ch) :
      ReadStep s { s.rxAppend bs with chan := ch, expired := e }

/-- The state a DECODE without a frame leaves the receiver in (rules R102, R125). -/
def State.needingMore (arm : NeedArm) (buf : List Byte) (pos : Nat) (s : State) : State :=
  { s with rxbuf := buf, sp := pos, fsm := arm.fsm }

/-- What a turn of the RX engine can answer (rules R118, R120, R121). -/
inductive RxStep (s : State) : State → Prop
  | idle : RxStep s s
  | needMore (hb : s.rxBusy = true) (arm : NeedArm) (buf : List Byte) (pos : Nat)
      (hd : decodeBuffer s.build.earlyDlcReject s.rxbuf s.sp = (.needMore arm, buf, pos)) (t : State)
      (h : ReadStep (s.needingMore arm buf pos) t) : RxStep s t
  | delivers (hb : s.rxBusy = true) (f : Frame) (p : Nat) (rest : List Byte) (hp : s.sp ≤ p)
      (hd : decodeFields (s.rxbuf.drop p) = .ok (f, rest)) :
      RxStep s (deliver f.data.length f { s with sp := p, fsm := .frameComplete })

/-- Everything a step can do, by the agent that moves. -/
inductive StepTo (s t : State) : Prop
  | command (hr : ¬ s.resetNext) (hc : s.cmdIssued = true) (h : CommandStep { s with cmdIssued := false } s.cmd t)
  | reset (hr : s.resetNext) (rest : List Input) (ch : Channel) (hch : ch = s.chan ∨ ∃ c : NewChannel, ch = c.channel)
      (h : t = { s.resetBlock with inputs := rest, chan := ch })
  | host (hr : ¬ s.resetNext) (hc : s.cmdIssued = false) (rest : List Input) (h : HostWrite { s with inputs := rest } t)
  | tx (hr : ¬ s.resetNext) (hc : s.cmdIssued = false) (rest : List Input) (h : TxStep { s with inputs := rest } t)
  | rx (hr : ¬ s.resetNext) (hc : s.cmdIssued = false) (rest : List Input) (h : RxStep { s with inputs := rest } t)

/-- The cases of an accepted command are those of `CommandStep`. -/
theorem exec_command_step {c : BitVec 4} {s t : State} (h : exec (decodeCommand c) s = .next t) : CommandStep s c t := by
  have code : ∀ n : BitVec 4, c.toNat = n.toNat → c = n := fun _ => BitVec.eq_of_toNat_eq
  unfold decodeCommand at h
  split at h
  case h_1 hc => obtain rfl := code 0 hc; cases h; exact .nop
  case h_2 hc =>
    obtain rfl := code 1 hc
    rcases exec_msgNew_next h with ⟨v, rfl⟩ | ⟨out, n, rfl⟩
    · exact .rangeError (.inl rfl) v
    · exact .msgNew out n
  case h_3 hc => obtain rfl := code 2 hc; cases h; exact .msgEq _ _
  case h_4 hc =>
    obtain rfl := code 3 hc
    rcases exec_encode_next h with ⟨v, rfl⟩ | ⟨out, n, rfl⟩
    · exact .rangeError (.inr rfl) v
    · exact .encode out n
  case h_5 hc =>
    obtain rfl := code 4 hc
    simp only [exec, execDecode] at h
    split at h <;> cases h
    · exact .decodeNeedMore _ _
    · exact .decodeFrame _ _ _
  case h_6 hc =>
    obtain rfl := code 5 hc
    rcases exec_send_next h with rfl | rfl | ⟨v, rfl⟩ | ⟨-, -, bytes, he, rfl⟩
    · exact .sendRefused
    · exact .sendBroken
    · exact .sendRangeError v
    · exact .sendStarts bytes he
  case h_7 hc =>
    obtain rfl := code 6 hc
    rcases exec_recv_next h with rfl | rfl | ⟨-, -, rfl⟩
    · exact .recvRefused
    · exact .recvBroken
    · exact .recvStarts
  case h_8 hc => cases h; exact .reserved hc.ge
  case h_9 =>
    simp only [imp_false] at *
    cases h
    exact .reserved (by omega)

/-- The cases of a TX turn are those of `TxStep`. -/
theorem txTurn_step {s t : State} (h : txTurn s = .next t) : TxStep s t := by
  rcases txTurn_next h with rfl | ⟨hb, ⟨-, rfl⟩ | ⟨-, ⟨ch, hw, rfl⟩ | ⟨c, ch, hw, rfl⟩⟩⟩
  · exact .stays
  · exact .done hb
  · exact .failed hb ch hw
  · rw [txAdvance_eq]
    split
    · exact .goesOn hb c ch hw ‹_›
    · exact .ends hb c ch hw

/-- The cases of the RX engine's answer to NeedMoreData are those of `ReadStep`. -/
theorem rxNeedMore_step {s t : State} (h : rxNeedMore s = .next t) : ReadStep s t := by
  rcases rxNeedMore_next h with rfl | ⟨-, rfl⟩ | ⟨he, ⟨ch, hr, rfl⟩ | ⟨bs, e, ch, hr, rfl⟩⟩
  · exact .waits
  · exact .timedOut
  · exact .failed ch hr
  · exact .reads he bs e ch hr

/-- Where DECODE finds a frame: in the buffer it was given, at or after its cursor (rules R100, R102). -/
theorem decodeBuffer_frame_buffer {early : Bool} {buf : List Byte} {pos : Nat} {f : Frame} {consumed frameEnd : Nat}
    {buf' : List Byte} {p : Nat} (h : decodeBuffer early buf pos = (.frame f consumed frameEnd, buf', p)) :
    buf' = buf ∧ pos ≤ p ∧ ∃ rest, decodeFields (buf.drop p) = .ok (f, rest) := by
  have ha := decodeBuffer_answer early buf pos
  rw [h] at ha
  cases ha with
  | accept q _ hq hs _ rest hd => exact ⟨rfl, hq.le.trans hs.1, rest, hd⟩

/-- A turn of the RX engine whose DECODE finds a frame is its delivery (rules R118, R121). -/
theorem rxTurn_of_frame {s : State} {f : Frame} {consumed frameEnd : Nat} {buf : List Byte} {p : Nat}
    (hb : s.rxBusy = true)
    (hd : decodeBuffer s.build.earlyDlcReject s.rxbuf s.sp = (.frame f consumed frameEnd, buf, p)) :
    (rxTurn s).result = .next (deliver f.data.length f { s with rxbuf := buf, sp := p, fsm := .frameComplete }) := by
  rw [rxTurn_result, if_neg (by simp [hb]), hd]

/-- The cases of an RX turn are those of `RxStep`. -/
theorem rxTurn_step {s t : State} (h : (rxTurn s).result = .next t) : RxStep s t := by
  cases hb : s.rxBusy with
  | false =>
    rw [rxTurn_of_idle hb] at h
    cases h
    exact .idle
  | true =>
    rcases hd : decodeBuffer s.build.earlyDlcReject s.rxbuf s.sp with ⟨arm | ⟨f, consumed, frameEnd⟩, buf, p⟩
    · rw [rxTurn_of_needMore hb hd] at h
      exact .needMore hb arm buf p hd t (rxNeedMore_step h)
    · rw [rxTurn_of_frame hb hd] at h
      obtain ⟨rfl, hp, rest, hf⟩ := decodeBuffer_frame_buffer hd
      cases h
      exact .delivers hb f p rest hp hf

/-- The cases of a step are those of `StepTo`. -/
theorem step_cases {s t : State} (h : step s = .next t) : StepTo s t := by
  rcases step_next h with ⟨hc, h⟩ | ⟨hc, ⟨a, rest, hi, rfl⟩ | ⟨rest, hi, h⟩ | ⟨rest, hi, h⟩⟩
  · exact .command (fun hr => by simp [hr.1] at hc) hc (exec_command_step h)
  · cases a with
    | rst => exact .reset ⟨hc, .inl ⟨rest, hi⟩⟩ rest s.chan (.inl rfl) rfl
    | recreate c => exact .reset ⟨hc, .inr ⟨c, rest, hi⟩⟩ rest c.channel (.inr ⟨c, rfl⟩) rfl
    | setMsgIn m => exact .host (by simp [State.resetNext, hi]) hc rest (.msgIn m)
    | setMsgIn2 m => exact .host (by simp [State.resetNext, hi]) hc rest (.msgIn2 m)
    | setTimeout t => exact .host (by simp [State.resetNext, hi]) hc rest (.timeout t)
    | setDecIn d => exact .host (by simp [State.resetNext, hi]) hc rest (.decIn d)
    | issue c => exact .host (by simp [State.resetNext, hi]) hc rest (.issue c)
    | close => exact .host (by simp [State.resetNext, hi]) hc rest .close
  · refine .tx ?_ hc rest (txTurn_step h)
    rcases hi with hi | ⟨hi, -⟩ <;> simp [State.resetNext, hi]
  · refine .rx ?_ hc rest (rxTurn_step h)
    rcases hi with hi | ⟨hi, -⟩ <;> simp [State.resetNext, hi]

/-! ### Reset, recovery and host actions (rules R26, R33, R47, R160, R163) -/

/-- The step is the host's action when the schedule says so (rule R26). -/
theorem step_of_host {s : State} {a : HostAction} {rest : List Input} (hc : s.cmdIssued = false)
    (hi : s.inputs = .host a :: rest) : step s = .next ({ s with inputs := rest }.hostAction a) := by
  simp [step, fetch, hc, hi]

/-- Settles O41: after reset nothing is issued, scheduled or in flight, so the block waits. -/
theorem resetValuesOfTheSpec : Obligations.ResetValuesOfTheSpec :=
  ⟨rfl, rfl, rfl, rfl, rfl, rfl, rfl, rfl, rfl, rfl, rfl, rfl⟩

/-- Settles O42: `rst` is `State.resetBlock`, which keeps the channel. -/
theorem resetAbandonsAndKeepsTheChannel : Obligations.ResetAbandonsAndKeepsTheChannel :=
  fun _ _ hc hi => ⟨_, step_of_host hc hi, rfl, rfl, rfl, rfl, rfl, rfl, rfl, rfl, rfl, rfl, rfl, rfl, rfl, rfl⟩

/-- Settles O45: the step is the action, and the action writes its register. -/
theorem hostActionsWriteTheirRegister : Obligations.HostActionsWriteTheirRegister :=
  fun _ _ hc => ⟨fun _ hi => step_of_host hc hi, fun _ hi => step_of_host hc hi, fun _ hi => step_of_host hc hi,
    fun _ hi => step_of_host hc hi, fun _ hi => step_of_host hc hi, fun hi => step_of_host hc hi⟩

/-- Settles O57: `recreate` is `State.resetBlock` with the new channel in place of the old. -/
theorem recreateResetsAndInstallsTheChannel : Obligations.RecreateResetsAndInstallsTheChannel :=
  fun _ _ _ hc hi => ⟨_, step_of_host hc hi, rfl, rfl, rfl, rfl, rfl, rfl, rfl, rfl, rfl, rfl, rfl, rfl, rfl,
    fun _ _ _ hch => by rw [hch]; rfl, fun _ _ hch => by rw [hch]; rfl⟩

/-! ### The invariant (rule R31) -/

/-- A RangeError carries a tag (rule R74). -/
theorem tagAgrees_rangeError (v : RangeTag) : TagAgrees Status.rangeError.code (tagCode (some v)) := by
  cases v <;> decide

/-- Every other outcome carries none (rule R27). -/
theorem tagAgrees_of_ne {st : Status} (h : st ≠ .rangeError) : TagAgrees st.code (tagCode none) := by
  refine ⟨fun hc => absurd hc ?_, fun _ _ => rfl⟩
  cases st with
  | rangeError => exact absurd rfl h
  | _ => decide

/-- A refusal leaves the tag free (rule R140; assumption log 11). -/
theorem tagAgrees_refused (tag : BitVec 2) : TagAgrees Status.refused.code tag :=
  ⟨fun h => absurd h (by decide), fun _ h => absurd rfl h⟩

/-- What ENCODE answers is one frame of 11 to 19 bytes (rules R61, R90, R91 E4). -/
theorem encodeMessage_is_frame {m : Message} {bytes : List Byte} (h : encodeMessage m = .ok bytes) :
    Config.minFrame ≤ bytes.length ∧ bytes.length ≤ Config.maxFrame ∧ ∃ i, decode (.frame bytes) = .ok i := by
  unfold encodeMessage at h
  split at h <;> cases h
  have hv : violation m = none := ‹_›
  have hl : m.frame.data.length ≤ 8 := by
    by_contra hc
    have h8 : Config.maxDlc < m.data.length := Nat.not_le.mp hc
    unfold violation at hv
    rw [if_pos h8] at hv
    split at hv <;> cases hv
  have hd : decodeFields (encodeFields m.frame) = .ok (m.frame, []) := by
    have := decodeFields_encodeFields_append m.frame [] hl
    rwa [List.append_nil] at this
  have hlen := encodeFields_length m.frame
  have h11 : Config.minFrame = 11 := rfl
  have h19 : Config.maxFrame = 19 := rfl
  exact ⟨by omega, by omega, m.frame.instr, by simp only [decode, hd]⟩

/-- An accepted command keeps the invariant. -/
theorem CommandStep.inv {s t : State} {c : BitVec 4} (h : CommandStep s c t) (hi : s.Inv) : t.Inv := by
  cases h with
  | nop => exact hi
  | rangeError _ v => exact { hi with tag := tagAgrees_rangeError v }
  | msgNew => exact { hi with tag := tagAgrees_of_ne (st := .message) nofun }
  | msgEq => exact { hi with tag := tagAgrees_of_ne (st := .ok) nofun }
  | encode => exact { hi with tag := tagAgrees_of_ne (st := .ok) nofun }
  | decodeNeedMore => exact { hi with tag := tagAgrees_of_ne (st := .needMoreData) nofun }
  | decodeFrame => exact { hi with tag := tagAgrees_of_ne (st := .message) nofun }
  | sendRefused => exact { hi with txTag := tagAgrees_refused s.txErrTag }
  | sendBroken => exact { hi with txTag := tagAgrees_of_ne (st := .transportError) nofun }
  | sendRangeError v => exact { hi with txTag := tagAgrees_rangeError v }
  | sendStarts bytes he =>
    obtain ⟨hmin, hmax, hdec⟩ := encodeMessage_is_frame he
    exact { hi with
      tx := fun _ => ⟨Nat.lt_of_lt_of_le (Nat.zero_lt_succ 10) hmin, hmin, hmax, hdec⟩
      loopbackUp := fun hk => by simp [hi.loopbackUp hk] }
  | recvRefused => exact { hi with }
  | recvBroken => exact { hi with }
  | recvStarts => exact { hi with loopbackUp := fun hk => by simp [hi.loopbackUp hk] }
  | reserved => exact { hi with tag := tagAgrees_refused s.errTag }

theorem HostWrite.inv {s t : State} (h : HostWrite s t) (hi : s.Inv) : t.Inv := by
  cases h <;> exact { hi with }

/-- What the invariant says of the channel alone (rule R52). -/
def Channel.LoopbackOk (ch : Channel) : Prop :=
  ch.kind = .loopback → ch.rxStream <:+ ch.txStream ∧ ch.writeFailed = false ∧ ch.readFailed = false

theorem State.Inv.loopbackOk {s : State} (h : s.Inv) : s.chan.LoopbackOk :=
  fun hk => ⟨h.loopback hk, h.loopbackUp hk⟩

/-- A `ChWrite` joins the same bytes to both streams of a loopback channel (rule R52). -/
theorem Channel.LoopbackOk.write {ch ch' : Channel} {bs : List Byte} {c : Nat} (h : ch.LoopbackOk)
    (hw : chWrite ch bs = .accepted c ch') : ch'.LoopbackOk := by
  obtain ⟨-, -, ws, rfl⟩ := chWrite_accepted hw
  obtain ⟨htx, hk, -, hwf, hrf, -, -, -, hrx⟩ := accept_fields (bs.take c) { ch with writes := ws }
  intro hl
  rw [hk] at hl
  obtain ⟨⟨read, hs⟩, hf⟩ := h hl
  rw [htx, hrx hl, hwf, hrf, ← hs, List.append_assoc]
  exact ⟨List.suffix_append read _, hf⟩

theorem Channel.LoopbackOk.write_failed {ch ch' : Channel} {bs : List Byte} (h : ch.LoopbackOk)
    (hw : chWrite ch bs = .failed ch') : ch'.LoopbackOk := by
  rcases chWrite_failed hw with ⟨-, rfl⟩ | ⟨hk, ws, -, rfl⟩
  · exact h
  · exact fun hl => absurd (hk.symm.trans hl) nofun

/-- A `ChRead` takes from the front of what a loopback channel holds (rule R52). -/
theorem Channel.LoopbackOk.read {ch ch' : Channel} {max : Nat} {d : Timeout} {bs : List Byte} {e : Bool}
    (h : ch.LoopbackOk) (hr : chRead ch max d = .bytes bs e ch') : ch'.LoopbackOk := by
  obtain ⟨k, rs, -, -, -, rfl, -, -⟩ := chRead_bytes hr
  intro hl
  obtain ⟨hs, hf⟩ := h hl
  exact ⟨(List.drop_suffix k ch.rxStream).trans hs, hf⟩

theorem Channel.LoopbackOk.read_failed {ch ch' : Channel} {max : Nat} {d : Timeout} (h : ch.LoopbackOk)
    (hr : chRead ch max d = .failed ch') : ch'.LoopbackOk := by
  rcases chRead_failed hr with ⟨-, rfl⟩ | ⟨hk, rs, -, rfl⟩
  · exact h
  · exact fun hl => absurd (hk.symm.trans hl) nofun

/-- A new channel, loopback or not, holds nothing it has not been given (rules R52, R163). -/
theorem Channel.LoopbackOk.new (c : NewChannel) : c.channel.LoopbackOk := by
  obtain ⟨-, hw, hr, -, hq⟩ := newChannel_fields c
  exact fun hk => ⟨by rw [hq hk]; exact List.nil_suffix, hw, hr⟩

/-- The end of a SEND leaves nothing of it in flight. -/
theorem sendDone_inv {s : State} (hi : s.Inv) : (sendDone s).Inv :=
  { hi with tx := nofun, txTag := tagAgrees_of_ne (st := .ok) nofun }

/-- A turn of the TX engine keeps the invariant. -/
theorem TxStep.inv {s t : State} (h : TxStep s t) (hi : s.Inv) : t.Inv := by
  cases h with
  | stays => exact hi
  | done => exact sendDone_inv hi
  | failed _ ch hw =>
    have hch := hi.loopbackOk.write_failed hw
    exact { hi with
      tx := nofun, txTag := tagAgrees_of_ne (st := .transportError) nofun
      loopback := fun hk => (hch hk).1, loopbackUp := fun hk => (hch hk).2 }
  | goesOn hb c ch hw hl =>
    have hch := hi.loopbackOk.write hw
    exact { hi with
      tx := fun _ => ⟨hl, (hi.tx hb).2⟩, loopback := fun hk => (hch hk).1, loopbackUp := fun hk => (hch hk).2 }
  | ends hb c ch hw =>
    have hch := hi.loopbackOk.write hw
    exact { hi with
      tx := nofun, txTag := tagAgrees_of_ne (st := .ok) nofun
      loopback := fun hk => (hch hk).1, loopbackUp := fun hk => (hch hk).2 }

/-- What follows a DECODE without a frame keeps the invariant. -/
theorem ReadStep.inv {s t : State} (h : ReadStep s t) (hi : s.Inv) : t.Inv := by
  cases h with
  | waits => exact hi
  | timedOut => exact { hi with }
  | failed ch hr =>
    have hch := hi.loopbackOk.read_failed hr
    exact { hi with loopback := fun hk => (hch hk).1, loopbackUp := fun hk => (hch hk).2 }
  | reads _ bs e ch hr =>
    have hch := hi.loopbackOk.read hr
    exact { hi with
      cursor := rxAppend_wf hi.cursor, loopback := fun hk => (hch hk).1, loopbackUp := fun hk => (hch hk).2 }

/-- A turn of the RX engine keeps the invariant: DECODE leaves its cursor in the buffer, and `fsm` is FrameComplete only
inside the delivery (rules R106, R125). -/
theorem RxStep.inv {s t : State} (h : RxStep s t) (hi : s.Inv) : t.Inv := by
  cases h with
  | idle => exact hi
  | needMore _ arm buf pos hd _ h =>
    have hfsm : arm.fsm ≠ .frameComplete := by cases arm <;> decide
    exact h.inv { hi with cursor := decodeBuffer_wf hd, fsm := hfsm }
  | delivers => exact { hi with cursor := Nat.zero_le _, fsm := nofun }

/-- Settles O47: after reset the buffer is empty, nothing is in flight, and the channel is external. -/
theorem invariantHoldsAtReset : Obligations.InvariantHoldsAtReset where
  cursor := reset_wf
  fsm := nofun
  tx := nofun
  tag := tagAgrees_of_ne (st := .noOutcome) nofun
  txTag := tagAgrees_of_ne (st := .noOutcome) nofun
  loopback := nofun
  loopbackUp := nofun

/-- The block reset on a channel that has the invariant has the invariant. -/
theorem resetBlock_inv (s : State) (rest : List Input) {ch : Channel} (hch : ch.LoopbackOk) :
    State.Inv { s.resetBlock with inputs := rest, chan := ch } :=
  { invariantHoldsAtReset with loopback := fun hk => (hch hk).1, loopbackUp := fun hk => (hch hk).2 }

/-- Settles O48, agent by agent: a command, a reset, a host action, a turn of either engine. -/
theorem everyStepKeepsTheInvariant : Obligations.EveryStepKeepsTheInvariant := by
  intro s t hi h
  cases step_cases h with
  | command _ _ h => exact h.inv { hi with }
  | reset _ rest ch hch ht =>
    subst ht
    refine resetBlock_inv s rest ?_
    rcases hch with rfl | ⟨c, rfl⟩
    · exact hi.loopbackOk
    · exact .new c
  | host _ _ rest h => exact h.inv { hi with }
  | tx _ _ rest h => exact h.inv { hi with }
  | rx _ _ rest h => exact h.inv { hi with }

/-! ### `broken` (rules R25, R31 I5) -/

/-- No command writes `broken`. -/
theorem CommandStep.broken_eq {s t : State} {c : BitVec 4} (h : CommandStep s c t) : t.broken = s.broken := by
  cases h <;> rfl

theorem HostWrite.broken_eq {s t : State} (h : HostWrite s t) : t.broken = s.broken := by
  cases h <;> rfl

/-- A turn of the TX engine writes `broken`, if at all, to 1. -/
theorem TxStep.broken {s t : State} (h : TxStep s t) (hb : s.broken = true) : t.broken = true := by
  cases h with
  | failed => rfl
  | _ => exact hb

theorem ReadStep.broken {s t : State} (h : ReadStep s t) (hb : s.broken = true) : t.broken = true := by
  cases h with
  | failed => rfl
  | _ => exact hb

/-- A turn of the RX engine writes `broken`, if at all, to 1. -/
theorem RxStep.broken {s t : State} (h : RxStep s t) (hb : s.broken = true) : t.broken = true := by
  cases h with
  | needMore _ _ _ _ _ _ h => exact h.broken hb
  | _ => exact hb

/-- Settles O49: only a failed call writes `broken`, and it writes 1. -/
theorem brokenIsSticky : Obligations.BrokenIsSticky := by
  intro s t hb h hr
  cases step_cases h with
  | command _ _ h => exact h.broken_eq.trans hb
  | reset hr' => exact absurd hr' hr
  | host _ _ _ h => exact h.broken_eq.trans hb
  | tx _ _ _ h => exact h.broken hb
  | rx _ _ _ h => exact h.broken hb

/-! ### The buffer (rules R22, R44, R96, R121) -/

/-- What a step that is no reset may do to the buffer. -/
def BufferMoves (s t : State) : Prop :=
  (s.rxBusy = false → t.rxbuf = s.rxbuf ∧ t.sp = s.sp ∧ t.fsm = s.fsm) ∧
  ∃ bs, bs <+: s.chan.rxStream ∧
    (bs ≠ [] → s.rxBusy = true ∧ s.expired = false ∧ s.chan.rxStream = bs ++ t.chan.rxStream) ∧
    (t.rxbuf = s.rxbuf ++ bs ∧ s.sp ≤ t.sp ∨
      (∀ i, s.sp ≤ i → s.rxbuf[i]? = some 0xAA → RejectedAt s.build.earlyDlcReject s.rxbuf i) ∧
        t.rxbuf = bs ∧ t.sp = 0 ∨
      bs = [] ∧ t.sp = 0 ∧ t.rxStatus = 2 ∧
        ∃ p f after, s.sp ≤ p ∧ decodeFields (s.rxbuf.drop p) = .ok (f, after) ∧
          t.rxbuf = s.rxbuf.drop (p + 11 + f.data.length))

/-- A step that leaves buffer, cursor and `fsm` alone is such a step. -/
theorem bufferMoves_of_eq {s t : State} (hbuf : t.rxbuf = s.rxbuf) (hsp : t.sp = s.sp) (hfsm : t.fsm = s.fsm) :
    BufferMoves s t :=
  ⟨fun _ => ⟨hbuf, hsp, hfsm⟩, [], List.nil_prefix, fun h => absurd rfl h,
    .inl ⟨by rw [hbuf, List.append_nil], hsp.ge⟩⟩

theorem CommandStep.bufferMoves {s t : State} {c : BitVec 4} (h : CommandStep s c t) : BufferMoves s t := by
  cases h <;> exact bufferMoves_of_eq rfl rfl rfl

theorem HostWrite.bufferMoves {s t : State} (h : HostWrite s t) : BufferMoves s t := by
  cases h <;> exact bufferMoves_of_eq rfl rfl rfl

theorem TxStep.bufferMoves {s t : State} (h : TxStep s t) : BufferMoves s t := by
  cases h <;> exact bufferMoves_of_eq rfl rfl rfl

/-- Every START between two cursors that are joined by rejections heads a rejected candidate (rule R101). -/
theorem Rejects.rejectedAt {early : Bool} {buf : List Byte} {pos q : Nat} (h : Rejects early buf pos q) {i : Nat}
    (hpos : pos ≤ i) (hq : i < q) (hi : buf[i]? = some Config.startByte) : RejectedAt early buf i := by
  induction h with
  | here => omega
  | past pos p q hs hr _ ih =>
    obtain ⟨-, -, hfirst⟩ := hs
    rcases Nat.lt_trichotomy i p with hip | rfl | hip
    · exact absurd hi (hfirst i hpos hip)
    · exact hr
    · exact ih hip hq

/-- What a DECODE without a frame leaves: the buffer with the cursor moved on, or nothing, where every START headed a
rejected candidate (rules R96 to R98, R102). -/
theorem decodeBuffer_needMore_buffer {early : Bool} {buf : List Byte} {pos : Nat} {arm : NeedArm} {buf' : List Byte}
    {pos' : Nat} (h : decodeBuffer early buf pos = (.needMore arm, buf', pos')) :
    buf' = buf ∧ pos ≤ pos' ∨
      (∀ i, pos ≤ i → buf[i]? = some Config.startByte → RejectedAt early buf i) ∧ buf' = [] ∧ pos' = 0 := by
  have ha := decodeBuffer_answer early buf pos
  rw [h] at ha
  cases ha with
  | noStart q hq hn =>
    exact .inr ⟨fun i hpos hi => hq.rejectedAt hpos (Nat.not_le.mp fun hqi => hn i hqi hi) hi, rfl, rfl⟩
  | header q p hq hs => exact .inl ⟨rfl, hq.le.trans hs.1⟩
  | frame q p hq hs => exact .inl ⟨rfl, hq.le.trans hs.1⟩

/-- What follows a DECODE without a frame appends what a `ChRead` handed over, or nothing (rule R120). -/
theorem ReadStep.appends {s t : State} (h : ReadStep s t) :
    t.sp = s.sp ∧ ∃ bs, t.rxbuf = s.rxbuf ++ bs ∧ bs <+: s.chan.rxStream ∧
      (bs ≠ [] → s.expired = false ∧ s.chan.rxStream = bs ++ t.chan.rxStream) := by
  cases h with
  | reads he bs e ch hr =>
    obtain ⟨k, rs, -, -, rfl, rfl, -, -⟩ := chRead_bytes hr
    exact ⟨rfl, _, rfl, List.take_prefix _ _, fun _ => ⟨he, (List.take_append_drop _ _).symm⟩⟩
  | _ => exact ⟨rfl, [], (List.append_nil _).symm, List.nil_prefix, fun h => absurd rfl h⟩

/-- A turn of the RX engine drops what DECODE or a delivery drops, and appends what it has read. -/
theorem RxStep.bufferMoves {s t : State} (h : RxStep s t) : BufferMoves s t := by
  cases h with
  | idle => exact bufferMoves_of_eq rfl rfl rfl
  | needMore hb arm buf pos hd _ h =>
    obtain ⟨hsp, bs, hbuf, hprefix, hread⟩ := h.appends
    refine ⟨fun hb' => absurd (hb.symm.trans hb') nofun, bs, hprefix, fun hne => ⟨hb, hread hne⟩, ?_⟩
    rw [hsp, hbuf]
    rcases decodeBuffer_needMore_buffer hd with ⟨rfl, hle⟩ | ⟨hrej, rfl, rfl⟩
    · exact .inl ⟨rfl, hle⟩
    · exact .inr (.inl ⟨hrej, rfl, rfl⟩)
  | delivers hb f p rest hp hd =>
    exact ⟨fun hb' => absurd (hb.symm.trans hb') nofun, [], List.nil_prefix, fun h => absurd rfl h,
      .inr (.inr ⟨rfl, rfl, rfl, p, f, rest, hp, hd, rfl⟩)⟩

/-- Settles O50: only a reset and a turn of the RX engine touch the buffer. -/
theorem bufferOnlyDropsAndAppends : Obligations.BufferOnlyDropsAndAppends := by
  intro s t h
  cases step_cases h with
  | command hr _ h => exact ⟨fun hr' => absurd hr' hr, fun _ => h.bufferMoves⟩
  | reset hr _ _ _ ht =>
    subst ht
    exact ⟨fun _ => ⟨rfl, rfl⟩, fun hr' => absurd hr hr'⟩
  | host hr _ _ h => exact ⟨fun hr' => absurd hr' hr, fun _ => h.bufferMoves⟩
  | tx hr _ _ h => exact ⟨fun hr' => absurd hr' hr, fun _ => h.bufferMoves⟩
  | rx hr _ _ h => exact ⟨fun hr' => absurd hr' hr, fun _ => h.bufferMoves⟩

/-! ### The result registers (rule R27) -/

/-- The result registers of the commands that run on no engine. -/
def State.hostPort (s : State) : BitVec 3 × BitVec 2 × MsgOut × FrameOut × Bool × DecOut :=
  (s.status, s.errTag, s.msgOut, s.frameOut, s.eqOut, s.decOut)

/-- The TX engine's result registers. -/
def State.txPort (s : State) : BitVec 3 × BitVec 2 := (s.txStatus, s.txErrTag)

/-- The RX engine's result registers. -/
def State.rxPort (s : State) : BitVec 3 × MsgOut := (s.rxStatus, s.rxMsgOut)

section ports
variable {s t : State} {c : BitVec 4}

theorem CommandStep.status_eq (h : CommandStep s c t) :
    t.status = s.status ∧ t.errTag = s.errTag ∨ c ≠ 0 ∧ c ≠ 5 ∧ c ≠ 6 := by
  cases h with
  | rangeError hc => rcases hc with rfl | rfl <;> exact .inr (by decide)
  | reserved hc => exact .inr ⟨by rintro rfl; contradiction, by rintro rfl; contradiction, by rintro rfl; contradiction⟩
  | msgNew | msgEq | encode | decodeNeedMore | decodeFrame => exact .inr (by decide)
  | _ => exact .inl ⟨rfl, rfl⟩

theorem CommandStep.msgOut_eq (h : CommandStep s c t) : t.msgOut = s.msgOut ∨ (c = 1 ∨ c = 4) ∧ t.status = 2 := by
  cases h with
  | msgNew => exact .inr ⟨.inl rfl, rfl⟩
  | decodeFrame => exact .inr ⟨.inr rfl, rfl⟩
  | _ => exact .inl rfl

theorem CommandStep.frameOut_eq (h : CommandStep s c t) : t.frameOut = s.frameOut ∨ c = 3 ∧ t.status = 1 := by
  cases h with
  | encode => exact .inr ⟨rfl, rfl⟩
  | _ => exact .inl rfl

theorem CommandStep.eqOut_eq (h : CommandStep s c t) : t.eqOut = s.eqOut ∨ c = 2 ∧ t.status = 1 := by
  cases h with
  | msgEq => exact .inr ⟨rfl, rfl⟩
  | _ => exact .inl rfl

theorem CommandStep.decOut_eq (h : CommandStep s c t) :
    t.decOut = s.decOut ∨ c = 4 ∧
      (t.status = 2 ∨ t.status = 4 ∧ t.decOut.consumed = s.decOut.consumed ∧ t.decOut.frameEnd = s.decOut.frameEnd) := by
  cases h with
  | decodeNeedMore => exact .inr ⟨rfl, .inr ⟨rfl, rfl, rfl⟩⟩
  | decodeFrame => exact .inr ⟨rfl, .inl rfl⟩
  | _ => exact .inl rfl

/-- Of the commands only a SEND that starts nothing writes the TX registers (rules R113, R140). -/
theorem CommandStep.txPort_eq (h : CommandStep s c t) : t.txPort = s.txPort ∨ c = 5 ∧ t.txBusy = s.txBusy := by
  cases h with
  | sendRefused | sendBroken | sendRangeError => exact .inr ⟨rfl, rfl⟩
  | _ => exact .inl rfl

/-- Of the commands only a RECV that starts nothing writes RX_STATUS, and none writes RX_MSG_OUT (rules R126, R140). -/
theorem CommandStep.rxPort_eq (h : CommandStep s c t) :
    (t.rxStatus = s.rxStatus ∨ c = 6 ∧ t.rxBusy = s.rxBusy) ∧ t.rxMsgOut = s.rxMsgOut := by
  cases h with
  | recvRefused | recvBroken => exact ⟨.inr ⟨rfl, rfl⟩, rfl⟩
  | _ => exact ⟨.inl rfl, rfl⟩

theorem HostWrite.ports_eq (h : HostWrite s t) :
    t.hostPort = s.hostPort ∧ t.txPort = s.txPort ∧ t.rxPort = s.rxPort := by
  cases h <;> exact ⟨rfl, rfl, rfl⟩

/-- A turn of the TX engine writes its own registers only, and them only when a SEND ends. -/
theorem TxStep.ports_eq (h : TxStep s t) :
    t.hostPort = s.hostPort ∧ t.rxPort = s.rxPort ∧
      (t.txPort = s.txPort ∨ s.txBusy = true ∧ t.txBusy = false) := by
  cases h with
  | stays | goesOn => exact ⟨rfl, rfl, .inl rfl⟩
  | done hb | failed hb | ends hb => exact ⟨rfl, rfl, .inr ⟨hb, rfl⟩⟩

theorem ReadStep.ports_eq (h : ReadStep s t) :
    t.hostPort = s.hostPort ∧ t.txPort = s.txPort ∧
      (t.rxStatus = s.rxStatus ∨ t.rxBusy = false) ∧ t.rxMsgOut = s.rxMsgOut := by
  cases h with
  | waits | reads => exact ⟨rfl, rfl, .inl rfl, rfl⟩
  | timedOut | failed => exact ⟨rfl, rfl, .inr rfl, rfl⟩

/-- A turn of the RX engine writes its own registers only, RX_STATUS when a RECV ends and RX_MSG_OUT when it delivers. -/
theorem RxStep.ports_eq (h : RxStep s t) :
    t.hostPort = s.hostPort ∧ t.txPort = s.txPort ∧
      (t.rxStatus = s.rxStatus ∨ s.rxBusy = true ∧ t.rxBusy = false) ∧
      (t.rxMsgOut = s.rxMsgOut ∨ s.rxBusy = true ∧ t.rxBusy = false ∧ t.rxStatus = 2) := by
  cases h with
  | idle => exact ⟨rfl, rfl, .inl rfl, .inl rfl⟩
  | needMore hb _ _ _ _ _ h =>
    obtain ⟨hhost, htx, hstatus, hmsg⟩ := h.ports_eq
    exact ⟨hhost, htx, hstatus.imp_right fun hend => ⟨hb, hend⟩, .inl hmsg⟩
  | delivers hb => exact ⟨rfl, rfl, .inr ⟨hb, rfl⟩, .inr ⟨hb, rfl, rfl⟩⟩

/-- Only an accepted command writes the host's result registers. -/
theorem StepTo.hostPort_eq (h : StepTo s t) (hr : ¬ s.resetNext) :
    t.hostPort = s.hostPort ∨ s.cmdIssued = true ∧ CommandStep { s with cmdIssued := false } s.cmd t := by
  cases h with
  | command _ hc h => exact .inr ⟨hc, h⟩
  | reset hr' => exact absurd hr' hr
  | host _ _ _ h | tx _ _ _ h | rx _ _ _ h => exact .inl h.ports_eq.1

/-- Only a SEND that starts nothing, or ends, writes the TX registers. -/
theorem StepTo.txPort_eq (h : StepTo s t) (hr : ¬ s.resetNext) :
    t.txPort = s.txPort ∨ s.cmdIssued = true ∧ s.cmd = 5 ∧ t.txBusy = s.txBusy ∨
      s.cmdIssued = false ∧ s.txBusy = true ∧ t.txBusy = false := by
  cases h with
  | command _ hc h => exact h.txPort_eq.imp_right fun hsend => .inl ⟨hc, hsend⟩
  | reset hr' => exact absurd hr' hr
  | host _ _ _ h => exact .inl h.ports_eq.2.1
  | tx _ hc _ h => exact h.ports_eq.2.2.imp_right fun hend => .inr ⟨hc, hend⟩
  | rx _ _ _ h => exact .inl h.ports_eq.2.1

/-- Only a RECV that starts nothing, or ends, writes RX_STATUS, and only a delivery RX_MSG_OUT. -/
theorem StepTo.rxPort_eq (h : StepTo s t) (hr : ¬ s.resetNext) :
    (t.rxStatus = s.rxStatus ∨ s.cmdIssued = true ∧ s.cmd = 6 ∧ t.rxBusy = s.rxBusy ∨
      s.cmdIssued = false ∧ s.rxBusy = true ∧ t.rxBusy = false) ∧
    (t.rxMsgOut = s.rxMsgOut ∨ s.cmdIssued = false ∧ s.rxBusy = true ∧ t.rxBusy = false ∧ t.rxStatus = 2) := by
  have same : t.rxPort = s.rxPort → t.rxStatus = s.rxStatus ∧ t.rxMsgOut = s.rxMsgOut := Prod.mk.inj
  cases h with
  | command _ hc h =>
    obtain ⟨hstatus, hmsg⟩ := h.rxPort_eq
    exact ⟨hstatus.imp_right fun hrecv => .inl ⟨hc, hrecv⟩, .inl hmsg⟩
  | reset hr' => exact absurd hr' hr
  | host _ _ _ h => exact (same h.ports_eq.2.2).imp .inl .inl
  | tx _ _ _ h => exact (same h.ports_eq.2.1).imp .inl .inl
  | rx _ hc _ h =>
    obtain ⟨-, -, hstatus, hmsg⟩ := h.ports_eq
    exact ⟨hstatus.imp_right fun hend => .inr ⟨hc, hend⟩, hmsg.imp_right fun hend => ⟨hc, hend⟩⟩

end ports

/-- Settles O53, port by port. -/
theorem resultsChangeOnlyWithTheirOutcome : Obligations.ResultsChangeOnlyWithTheirOutcome := by
  intro s t h hr
  have hs := step_cases h
  have htx : t.txStatus ≠ s.txStatus ∨ t.txErrTag ≠ s.txErrTag → _ :=
    fun hne => (hs.txPort_eq hr).resolve_left fun heq => not_and_or.mpr hne (Prod.mk.inj heq)
  have hrx : t.rxStatus ≠ s.rxStatus → _ := (hs.rxPort_eq hr).1.resolve_left
  have hmsg : t.rxMsgOut ≠ s.rxMsgOut → _ := (hs.rxPort_eq hr).2.resolve_left
  rcases hs.hostPort_eq hr with heq | ⟨hc, hcmd⟩
  · simp only [State.hostPort, Prod.mk.injEq] at heq
    obtain ⟨hstatus, htag, hout, hframe, heqOut, hdec⟩ := heq
    exact ⟨fun hne => absurd ⟨hstatus, htag⟩ (not_and_or.mpr hne), fun hne => absurd hout hne,
      fun hne => absurd hframe hne, fun hne => absurd heqOut hne, fun hne => absurd hdec hne, htx, hrx, hmsg⟩
  · exact ⟨fun hne => ⟨hc, hcmd.status_eq.resolve_left (not_and_or.mpr hne)⟩,
      fun hne => ⟨hc, hcmd.msgOut_eq.resolve_left hne⟩, fun hne => ⟨hc, hcmd.frameOut_eq.resolve_left hne⟩,
      fun hne => ⟨hc, hcmd.eqOut_eq.resolve_left hne⟩, fun hne => ⟨hc, hcmd.decOut_eq.resolve_left hne⟩,
      htx, hrx, hmsg⟩

/-! ### Dead bytes (rule R32) -/

/-- An answer with the dead bytes of its state discarded. -/
def Result.compact : Result → Result
  | .next t => .next t.compact
  | .fault r => .fault r
  | .refused r => .refused r

/-- Answers that are the same without their dead bytes differ in dead bytes only. -/
theorem sameLive_of_compact_eq {r r' : Result} (h : Result.compact r' = Result.compact r) : Result.sameLive r r' := by
  cases r <;> cases r' <;> simp_all [Result.compact, Result.sameLive]

/-- A command reads and writes neither buffer nor cursor (rules R26, R27). -/
theorem exec_command_compact (c : BitVec 4) (s : State) :
    Result.compact (exec (decodeCommand c) s.compact) = Result.compact (exec (decodeCommand c) s) := by
  have hop : s.compact.operand = s.operand := rfl
  unfold decodeCommand
  split
  case h_2 =>
    simp only [exec, execMsgNew, hop]
    cases violation s.operand <;> rfl
  case h_4 =>
    simp only [exec, execEncode, hop]
    cases encodeMessage s.operand <;> rfl
  case h_5 =>
    simp only [exec, execDecode, compact_build, compact_decIn]
    rcases decodeBuffer s.build.earlyDlcReject s.decIn.buf s.decIn.pos with ⟨_ | _, _, _⟩ <;> rfl
  case h_6 =>
    simp only [exec, execSend, apply_ite Result.compact]
    rw [hop]
    cases encodeMessage s.operand <;> rfl
  case h_7 =>
    simp only [exec, execRecv, apply_ite Result.compact]
    rfl
  all_goals rfl

/-- A host action reads neither buffer nor cursor, and writes them only to empty the buffer, in a reset (rules R26, R33). -/
theorem hostAction_compact (a : HostAction) (s : State) : (s.compact.hostAction a).compact = (s.hostAction a).compact := by
  cases a <;> rfl

theorem txAdvance_compact (c : Nat) (ch : Channel) (s : State) : txAdvance c ch s.compact = (txAdvance c ch s).compact := by
  rw [txAdvance_eq, txAdvance_eq, apply_ite State.compact]
  rfl

/-- A turn of the TX engine reads and writes nothing of the receiver's (rule R51). -/
theorem txTurn_compact (s : State) : Result.compact (txTurn s.compact) = Result.compact (txTurn s) := by
  simp only [txTurn, apply_ite Result.compact]
  rw [compact_chan, compact_txframe, compact_txoff]
  cases chWrite s.chan (s.txframe.drop s.txoff) with
  | accepted c ch => simp only [txAdvance_compact]; rfl
  | _ => rfl

/-- What is appended stands behind the live bytes, whatever is dead before them. -/
theorem rxAppend_compact (bs : List Byte) {s : State} (h : Memory.wf s) :
    (s.compact.rxAppend bs).compact = (s.rxAppend bs).compact := by
  simp [State.compact, State.rxAppend, List.drop_append_of_le_length h]

/-- What the RX engine does after NeedMoreData does not depend on dead bytes (rules R120 to R124). -/
theorem rxNeedMore_compact {s : State} (h : Memory.wf s) :
    Result.compact (rxNeedMore s.compact) = Result.compact (rxNeedMore s) := by
  simp only [rxNeedMore, apply_ite Result.compact]
  rw [compact_chan, compact_build, compact_rxTimeout]
  cases chRead s.chan s.build.maxRead.val s.rxTimeout with
  | bytes bs e ch =>
    have happ := congrArg (fun u : State => (.next { u with chan := ch, expired := e } : Result)) (rxAppend_compact bs h)
    exact if_congr Iff.rfl rfl happ
  | _ => rfl

/-- A delivery drops the dead bytes with the frame (rule R121). -/
theorem deliver_compact (n : Nat) (f : Frame) (s : State) : deliver n f s.compact = deliver n f s := by
  simp [deliver, State.compact, State.rxDrop, List.drop_drop, Nat.add_assoc]

/-- The receiver after two DECODEs that leave the same live bytes, one of them on the live bytes alone. -/
theorem writeBack_compact (s : State) (x : Fsm) {buf buf' : List Byte} {p p' : Nat} (h : buf'.drop p' = buf.drop p) :
    State.compact { s.compact with rxbuf := buf', sp := p', fsm := x } =
      State.compact { s with rxbuf := buf, sp := p, fsm := x } := by
  simp [State.compact, h]

/-- A turn of the RX engine finds the same frame, or the same need of more bytes, without the dead bytes (rule R102). -/
theorem rxTurn_compact (s : State) : Result.compact (rxTurn s.compact).result = Result.compact (rxTurn s).result := by
  cases hb : s.rxBusy with
  | false =>
    rw [rxTurn_of_idle hb, rxTurn_of_idle (s := s.compact) hb]
    rfl
  | true =>
    rcases hd : decodeBuffer s.build.earlyDlcReject s.rxbuf s.sp with ⟨arm | ⟨f, consumed, frameEnd⟩, buf, p⟩
    · obtain ⟨buf', p', hd', hlive⟩ := decodeBuffer_drop_needMore (k := s.sp) (pos := 0) hd
      have hsame : (s.compact.needingMore arm buf' p').compact = (s.needingMore arm buf p).compact :=
        writeBack_compact s arm.fsm hlive
      calc Result.compact (rxTurn s.compact).result
          = Result.compact (rxNeedMore (s.compact.needingMore arm buf' p')) :=
            congrArg _ (rxTurn_of_needMore (s := s.compact) hb hd')
        _ = Result.compact (rxNeedMore (s.compact.needingMore arm buf' p').compact) :=
            (rxNeedMore_compact (decodeBuffer_wf hd')).symm
        _ = Result.compact (rxNeedMore (s.needingMore arm buf p).compact) := by rw [hsame]
        _ = Result.compact (rxNeedMore (s.needingMore arm buf p)) := rxNeedMore_compact (decodeBuffer_wf hd)
        _ = Result.compact (rxTurn s).result := congrArg _ (rxTurn_of_needMore hb hd).symm
    · have hd' := decodeBuffer_drop_frame (k := s.sp) (pos := 0) hd
      obtain ⟨rfl, hp, -, -⟩ := decodeBuffer_frame_buffer hd
      have hlive : (s.rxbuf.drop s.sp).drop (p - s.sp) = s.rxbuf.drop p := by
        rw [List.drop_drop, Nat.add_sub_cancel' hp]
      rw [rxTurn_of_frame hb hd, rxTurn_of_frame (s := s.compact) hb hd', ← deliver_compact,
        writeBack_compact s .frameComplete hlive, deliver_compact]

/-- The step accepts a command that has been issued (rule R26; assumption log 2). -/
theorem step_of_issued {s : State} (hc : s.cmdIssued = true) :
    step s = exec (decodeCommand s.cmd) { s with cmdIssued := false } := by
  simp [step, fetch, hc]

/-- With an empty schedule the step is the turn of the engine that can move (assumption log 19). -/
theorem step_of_free {s : State} (hc : s.cmdIssued = false) (hi : s.inputs = []) :
    step s = if txReady s = true then txTurn s else (rxTurn s).result := by
  rw [step_eq]
  simp only [fetch, hc, hi, freeRun]
  rw [if_neg (by decide), apply_ite Fetch.result]
  rfl

/-- Settles O56, by what moves: a command, a host action, a turn of either engine. -/
theorem deadBytesAreInvisible : Obligations.DeadBytesAreInvisible := by
  intro s
  apply sameLive_of_compact_eq
  cases hc : s.cmdIssued with
  | true =>
    rw [step_of_issued hc, step_of_issued (s := s.compact) hc]
    exact exec_command_compact s.cmd { s with cmdIssued := false }
  | false =>
    rcases hi : s.inputs with _ | ⟨a | _ | _, rest⟩
    · rw [step_of_free hc hi, step_of_free (s := s.compact) hc hi, apply_ite Result.compact, apply_ite Result.compact,
        txTurn_compact, rxTurn_compact]
      rfl
    · rw [step_of_host hc hi, step_of_host (s := s.compact) hc hi]
      exact congrArg Host.Outcome.next (hostAction_compact a { s with inputs := rest })
    · rw [step_of_txTurn hc hi, step_of_txTurn (s := s.compact) hc hi]
      exact txTurn_compact { s with inputs := rest }
    · rw [step_of_rxTurn hc hi, step_of_rxTurn (s := s.compact) hc hi]
      exact rxTurn_compact { s with inputs := rest }

end Sys2Proof.Machine
end

section
/-! PROOFS. The statements of 20_memory.md: what a channel call answers, external and loopback (rules R45 to R47, R52); the
turn of an engine that makes it (rules R111, R112, R120, R124); a whole SEND (rules R49, R110); the two streams (rules R40,
R46, R50); the engines apart (rule R51); a failed channel after reset (rule R161). -/

namespace Sys2Proof.Machine

/-! ### What a channel call answers (rules R45 to R47, R52) -/

/-- What an external channel accepts joins its TX stream only (rule R45). -/
theorem accept_external {ch : Channel} (hk : ch.kind = .external) (bs : List Byte) :
    ch.accept bs = { ch with txStream := ch.txStream ++ bs } := by
  simp [Channel.accept, hk]

/-- What a loopback channel accepts joins its queue too (rule R52). -/
theorem accept_loopback {ch : Channel} (hk : ch.kind = .loopback) (bs : List Byte) :
    ch.accept bs = { ch with txStream := ch.txStream ++ bs, rxStream := ch.rxStream ++ bs } := by
  simp [Channel.accept, hk]

/-- A scripted count, on either kind of channel, is tested against what was offered (rule R45). -/
theorem chWrite_count {ch : Channel} {bs : List Byte} {c : Nat} {ws : List WriteAnswer} (hw : ch.writable = true)
    (hs : ch.writes = .count c :: ws) : chWrite ch bs = { ch with writes := ws }.acceptCount bs c := by
  cases hk : ch.kind <;> simp [chWrite, hw, hs, hk]

/-- A count within what was offered is accepted (rule R45). -/
theorem acceptCount_of_le {ch : Channel} {bs : List Byte} {c : Nat} (h : c ≤ bs.length) :
    ch.acceptCount bs c = .accepted c (ch.accept (bs.take c)) := if_neg (Nat.not_lt.mpr h)

/-- A count above what was offered is outside the contract (rule R48, U3). -/
theorem acceptCount_of_gt {ch : Channel} {bs : List Byte} {c : Nat} (h : bs.length < c) :
    ch.acceptCount bs c = .breach := if_pos h

/-- A scripted failure of an external `ChWrite` is for good (rules R47, R161). -/
theorem chWrite_fail {ch : Channel} {bs : List Byte} {ws : List WriteAnswer} (hk : ch.kind = .external)
    (hw : ch.writable = true) (hs : ch.writes = .fail :: ws) :
    chWrite ch bs = .failed { ch with writes := ws, writeFailed := true } := by
  simp [chWrite, hw, hs, hk]

/-- All that is offered to a loopback channel, accepted (rule R52). -/
theorem acceptCount_loopback_all {ch : Channel} (hk : ch.kind = .loopback) (bs : List Byte) :
    ch.acceptCount bs bs.length =
      .accepted bs.length { ch with txStream := ch.txStream ++ bs, rxStream := ch.rxStream ++ bs } := by
  rw [acceptCount_of_le le_rfl, List.take_length, accept_loopback hk]

/-- A loopback channel accepts all it is offered unless its script says less (rule R52; assumption log 18). -/
theorem chWrite_loopback_all {ch : Channel} {bs : List Byte} (hk : ch.kind = .loopback) (hw : ch.writable = true)
    (hs : ch.writes = [] ∨ ch.writes.head? = some .fail ∨ ch.writes.head? = some (.count bs.length)) :
    chWrite ch bs = .accepted bs.length
      { ch with writes := ch.writes.tail, txStream := ch.txStream ++ bs, rxStream := ch.rxStream ++ bs } := by
  have scripted (ws : List WriteAnswer) := acceptCount_loopback_all (ch := { ch with writes := ws }) hk bs
  rcases hl : ch.writes with _ | ⟨_ | _, ws⟩
  · simpa [chWrite, hw, hk, hl] using acceptCount_loopback_all hk bs
  · obtain rfl : _ = bs.length := by simpa [hl] using hs
    exact (chWrite_count hw hl).trans (scripted ws)
  · simpa [chWrite, hw, hk, hl] using scripted ws

/-- A loopback channel accepts the count its script gives (rule R52). -/
theorem chWrite_loopback_count {ch : Channel} {bs : List Byte} {c : Nat} {ws : List WriteAnswer} (hk : ch.kind = .loopback)
    (hw : ch.writable = true) (hs : ch.writes = .count c :: ws) (hc : c ≤ bs.length) :
    chWrite ch bs = .accepted c
      { ch with writes := ws, txStream := ch.txStream ++ bs.take c, rxStream := ch.rxStream ++ bs.take c } :=
  (chWrite_count hw hs).trans ((acceptCount_of_le hc).trans (congrArg _ (accept_loopback (ch := { ch with writes := ws }) hk _)))

/-- An external channel accepts the count its script gives (rule R45). -/
theorem chWrite_external_count {ch : Channel} {bs : List Byte} {c : Nat} {ws : List WriteAnswer} (hk : ch.kind = .external)
    (hw : ch.writable = true) (hs : ch.writes = .count c :: ws) (hc : c ≤ bs.length) :
    chWrite ch bs = .accepted c { ch with writes := ws, txStream := ch.txStream ++ bs.take c } :=
  (chWrite_count hw hs).trans ((acceptCount_of_le hc).trans (congrArg _ (accept_external (ch := { ch with writes := ws }) hk _)))

/-- A scripted failure of an external `ChRead` is for good (rules R47, R161). -/
theorem chRead_fail {ch : Channel} {max : Nat} {t : Timeout} {rs : List ReadAnswer} (hk : ch.kind = .external)
    (hr : ch.readable = true) (hs : ch.reads = .fail :: rs) :
    chRead ch max t = .failed { ch with reads := rs, readFailed := true } := by
  simp [chRead, hr, hs, hk]

/-- A scripted answer of an external `ChRead` within the contract (rules R46, R119). -/
theorem chRead_external_bytes {ch : Channel} {max k : Nat} {d : Timeout} {e : Bool} {rs : List ReadAnswer}
    (hk : ch.kind = .external) (hr : ch.readable = true) (hs : ch.reads = .bytes k e :: rs)
    (h : ¬ (max < k ∨ ch.rxStream.length < k)) :
    chRead ch max d = { ch with reads := rs }.handOver k (d.expiry e) := by
  simp [chRead, hr, hs, hk, h]

/-- An external `ChRead` behind the end of its script (assumption log 3). -/
theorem chRead_unscripted {ch : Channel} (hk : ch.kind = .external) (hr : ch.readable = true) (hs : ch.reads = [])
    (max : Nat) (d : Timeout) : chRead ch max d = ch.unscripted max d := by
  simp [chRead, hr, hs, hk]

/-- More bytes than MAX_READ or than the RX stream holds are outside the contract (rule R48, U3). -/
theorem chRead_of_excess {ch : Channel} {max k : Nat} {t : Timeout} {e : Bool} {rs : List ReadAnswer}
    (hk : ch.kind = .external) (hr : ch.readable = true) (hs : ch.reads = .bytes k e :: rs)
    (h : max < k ∨ ch.rxStream.length < k) : chRead ch max t = .breach := by
  simp [chRead, hr, hs, hk, h]

/-- A loopback channel hands over what its queue holds, up to `max` bytes, at once (rule R52). -/
theorem chRead_loopback {ch : Channel} (hk : ch.kind = .loopback) (hr : ch.readable = true) (max : Nat) (t : Timeout) :
    chRead ch max t = .bytes (ch.rxStream.take (min ch.rxStream.length max)) (t.expiry (loopbackExpiry ch.reads))
      { ch with reads := ch.reads.tail, rxStream := ch.rxStream.drop (min ch.rxStream.length max) } := by
  simp [chRead, hr, hk, Channel.handOver]

/-- Settles O43: writes with an empty script and with a count, and a read, whose deadline bit the form of TIMEOUT fixes. -/
theorem loopbackReturnsWhatWasWritten : Obligations.LoopbackReturnsWhatWasWritten := by
  intro ch bs max t hk hw hr
  refine ⟨fun hs => ?writesAll, fun c ws hs hc => chWrite_loopback_count hk hw hs hc,
    t.expiry (loopbackExpiry ch.reads), chRead_loopback hk hr max t, ?zero, ?infinite⟩
  case writesAll =>
    simpa [hs] using chWrite_loopback_all (bs := bs) hk hw (.inl hs)
  case zero => rintro rfl; rfl
  case infinite => rintro rfl; rfl

/-! ### An engine's turn, by the answer of its channel call (rules R111, R112, R120, R124) -/

/-- A turn of the TX engine whose `ChWrite` accepts bytes (rule R111). -/
theorem txTurn_of_accepted {s : State} {c : Nat} {ch : Channel} (hb : s.txBusy = true) (ho : s.txoff < s.txframe.length)
    (hw : chWrite s.chan (s.txframe.drop s.txoff) = .accepted c ch) : txTurn s = .next (txAdvance c ch s) := by
  simp [txTurn, hb, Nat.not_le.mpr ho, hw]

/-- A turn of the TX engine whose `ChWrite` fails (rule R112). -/
theorem txTurn_of_failed {s : State} {ch : Channel} (hb : s.txBusy = true) (ho : s.txoff < s.txframe.length)
    (hw : chWrite s.chan (s.txframe.drop s.txoff) = .failed ch) :
    txTurn s = .next { s with chan := ch, broken := true, txBusy := false, txStatus := 6, txErrTag := 0 } := by
  simp only [txTurn, hb, Nat.not_le.mpr ho, hw]
  rfl

/-- A turn of the TX engine whose `ChWrite` is outside the contract (rule R48). -/
theorem txTurn_of_breach {s : State} (hb : s.txBusy = true) (ho : s.txoff < s.txframe.length)
    (hw : chWrite s.chan (s.txframe.drop s.txoff) = .breach) : txTurn s = .fault .channelBreach := by
  simp [txTurn, hb, Nat.not_le.mpr ho, hw]

/-- The SEND goes on while bytes are left (rule R111). -/
theorem txAdvance_of_lt {c : Nat} {ch : Channel} {s : State} (h : s.txoff + c < s.txframe.length) :
    txAdvance c ch s = { s with chan := ch, txoff := s.txoff + c } := if_pos h

/-- The SEND ends with Ok when none is left (rule R111). -/
theorem txAdvance_of_eq {c : Nat} {ch : Channel} {s : State} (h : s.txoff + c = s.txframe.length) :
    txAdvance c ch s =
      { s with chan := ch, txoff := s.txoff + c, txBusy := false, txStatus := 1, txErrTag := 0 } := if_neg h.not_lt

/-- After NeedMoreData, a `ChRead` that hands bytes over (rules R120, R122). -/
theorem rxNeedMore_of_bytes {s : State} {bs : List Byte} {e : Bool} {ch : Channel} (he : s.expired = false)
    (hr : chRead s.chan s.build.maxRead.val s.rxTimeout = .bytes bs e ch) :
    rxNeedMore s = .next { s with rxbuf := s.rxbuf ++ bs, chan := ch, expired := e } := by
  simp [rxNeedMore, he, hr, State.rxAppend]

/-- After NeedMoreData, a `ChRead` that fails (rule R124). -/
theorem rxNeedMore_of_failed {s : State} {ch : Channel} (he : s.expired = false)
    (hr : chRead s.chan s.build.maxRead.val s.rxTimeout = .failed ch) :
    rxNeedMore s = .next { s with chan := ch, broken := true, rxBusy := false, rxStatus := 6 } := by
  rw [rxNeedMore, if_neg (by simp [he]), hr]
  rfl

/-- After NeedMoreData, a `ChRead` outside the contract (rule R48). -/
theorem rxNeedMore_of_breach {s : State} (he : s.expired = false)
    (hr : chRead s.chan s.build.maxRead.val s.rxTimeout = .breach) : rxNeedMore s = .fault .channelBreach := by
  simp [rxNeedMore, he, hr]

section turn
variable {s : State} {rest : List Input}

/-- The step that is a `ChWrite` with an answer (rule R111). -/
theorem step_of_accepted {c : Nat} {ch : Channel} (hc : s.cmdIssued = false) (hi : s.inputs = .txTurn :: rest)
    (hb : s.txBusy = true) (ho : s.txoff < s.txframe.length)
    (hw : chWrite s.chan (s.txframe.drop s.txoff) = .accepted c ch) :
    step s = .next (txAdvance c ch { s with inputs := rest }) :=
  (step_of_txTurn hc hi).trans (txTurn_of_accepted hb ho hw)

/-- The step that is a failed `ChWrite` (rule R112). -/
theorem step_of_write_failed {ch : Channel} (hc : s.cmdIssued = false) (hi : s.inputs = .txTurn :: rest)
    (hb : s.txBusy = true) (ho : s.txoff < s.txframe.length)
    (hw : chWrite s.chan (s.txframe.drop s.txoff) = .failed ch) :
    step s = .next
      { s with inputs := rest, chan := ch, broken := true, txBusy := false, txStatus := 6, txErrTag := 0 } :=
  (step_of_txTurn hc hi).trans (txTurn_of_failed hb ho hw)

/-- The step in which the RX engine finds no frame is one NeedMoreData (rules R118, R120). -/
theorem step_of_needMore {arm : NeedArm} {buf : List Byte} {pos : Nat} (hc : s.cmdIssued = false)
    (hi : s.inputs = .rxTurn :: rest) (hb : s.rxBusy = true)
    (hd : decodeBuffer s.build.earlyDlcReject s.rxbuf s.sp = (.needMore arm, buf, pos)) :
    step s = rxNeedMore { s with inputs := rest, rxbuf := buf, sp := pos, fsm := arm.fsm } :=
  (step_of_rxTurn hc hi).trans (rxTurn_of_needMore hb hd)

end turn

/-- Settles O32: what is offered is the remainder, and the count decides between going on and Ok. -/
theorem writeTurnOffersTheRemainder : Obligations.WriteTurnOffersTheRemainder := by
  intro s rest c ws hc hi hb ho hk hw hs hle
  have hstep := step_of_accepted hc hi hb ho
    (chWrite_external_count (bs := s.txframe.drop s.txoff) hk hw hs (by simpa using hle))
  exact ⟨fun hmore => hstep.trans (congrArg _ (txAdvance_of_lt hmore)),
    fun hlast => hstep.trans (congrArg _ (txAdvance_of_eq hlast))⟩

/-- Settles O33: a scripted failure, and a channel that can only fail. -/
theorem failedWriteBreaksTheBus : Obligations.FailedWriteBreaksTheBus :=
  fun _ _ hc hi hb ho => ⟨fun _ hk hw hs => step_of_write_failed hc hi hb ho (chWrite_fail hk hw hs),
    fun hw => step_of_write_failed hc hi hb ho (chWrite_of_not_writable hw _)⟩

/-- Settles O38: a scripted failure, and a channel that can only fail. -/
theorem failedReadBreaksTheBus : Obligations.FailedReadBreaksTheBus := by
  intro s rest arm buf pos hc hi hb he hd
  rw [← needArm_fsm_eq]
  exact ⟨fun rs hk hr hs => (step_of_needMore hc hi hb hd).trans (rxNeedMore_of_failed he (chRead_fail hk hr hs)),
    fun hr => (step_of_needMore hc hi hb hd).trans (rxNeedMore_of_failed he (chRead_of_not_readable hr _ _))⟩

/-- Settles O44: an excess count of a `ChWrite`, and of a `ChRead`. -/
theorem channelBreachStops : Obligations.ChannelBreachStops := by
  intro s rest hc
  refine ⟨fun c ws hi hw hb ho hs hgt => ?write, fun k e rs arm buf pos hi hb he hd hk hr hs hgt => ?read⟩
  case write =>
    have hbreach : chWrite s.chan (s.txframe.drop s.txoff) = .breach :=
      (chWrite_count hw hs).trans (acceptCount_of_gt (by simpa using hgt))
    exact (step_of_txTurn hc hi).trans (txTurn_of_breach hb ho hbreach)
  case read =>
    exact (step_of_needMore hc hi hb hd).trans (rxNeedMore_of_breach he (chRead_of_excess hk hr hs hgt))

/-- Settles O58: a write that leaves bytes, a write of all that is left, and a read. -/
theorem loopbackTurnsAnswerAtOnce : Obligations.LoopbackTurnsAnswerAtOnce := by
  intro s rest hc hk hopen
  refine ⟨fun hi hwf hb ho => ⟨fun c ws hs hmore => ?more, fun hs => ?all⟩, fun arm buf pos hi hrf hb he hd => ?read⟩
  case more =>
    have hw := chWrite_loopback_count (bs := s.txframe.drop s.txoff) hk (by simp [Channel.writable, hopen, hwf]) hs
      (by rw [List.length_drop]; omega)
    exact (step_of_accepted hc hi hb ho hw).trans (congrArg _ (txAdvance_of_lt hmore))
  case all =>
    have hw := chWrite_loopback_all (bs := s.txframe.drop s.txoff) hk (by simp [Channel.writable, hopen, hwf])
      (by rwa [List.length_drop])
    have hlast : s.txoff + (s.txframe.drop s.txoff).length = s.txframe.length := by rw [List.length_drop]; omega
    rw [step_of_accepted hc hi hb ho hw, txAdvance_of_eq (by exact hlast), hlast]
  case read =>
    have hr := chRead_loopback hk (by simp [Channel.readable, hopen, hrf]) s.build.maxRead.val s.rxTimeout
    rw [Nat.min_comm, ← List.take_eq_take_min, ← List.drop_eq_drop_min] at hr
    rw [← needArm_fsm_eq]
    refine ((step_of_needMore hc hi hb hd).trans (rxNeedMore_of_bytes he hr)).trans ?_
    rcases s.rxTimeout with _ | _ | _
    · rfl
    · rcases s.chan.reads with _ | ⟨_ | _, _⟩ <;> rfl
    · rfl

/-! ### The acceptance of SEND and RECV (rules R110, R118) -/

/-- The bytes of the frame of a valid operand register (rules R60, R90). -/
def MsgIn.frameBytes (m : MsgIn) : List Byte :=
  [0xAA] ++ bytesBe32 (tsQuant m.ts) ++ [m.len] ++ bytesBe32 m.id ++ m.data.toList.take m.len.toNat ++ [0xBB]

/-- ENCODE of a valid operand register answers its frame's bytes (rule R90). -/
theorem encodeMessage_eq_frameBytes {s : State} (hid : s.msgIn.id.toNat ≤ 536870911) (hlen : s.msgIn.len.toNat ≤ 8)
    (hts : tsValid s.msgIn.ts = true) : encodeMessage s.operand = .ok s.msgIn.frameBytes :=
  encodeMessage_operand _ s.msgIn hid hlen hts

/-- A frame has `11 + dlc` bytes (rule R61). -/
theorem frameBytes_length {m : MsgIn} (hlen : m.len.toNat ≤ 8) : m.frameBytes.length = 11 + m.len.toNat := by
  simp [MsgIn.frameBytes, bytesBe32_length]
  omega

/-- SEND with the engine free and the channel not broken, on an operand that ENCODE accepts (rule R110). -/
theorem exec_send_starts {s : State} {bytes : List Byte} (hb : s.txBusy = false) (hbr : s.broken = false)
    (he : encodeMessage s.operand = .ok bytes) :
    exec .send s = .next { s with txframe := bytes, txoff := 0, txBusy := true, chan := s.chan.beginSend } := by
  simp [exec, execSend, hb, hbr, he]

/-- The step that accepts a SEND, the engine free and the channel not broken, on an operand that ENCODE accepts (rule
R110). -/
theorem step_of_send {s : State} {bytes : List Byte} (hc : s.cmdIssued = true) (hcmd : s.cmd = 5) (hb : s.txBusy = false)
    (hbr : s.broken = false) (he : encodeMessage s.operand = .ok bytes) :
    step s = .next
      { s with cmdIssued := false, txframe := bytes, txoff := 0, txBusy := true, chan := s.chan.beginSend } := by
  have hdecode : decodeCommand s.cmd = .send := by rw [hcmd]; rfl
  rw [step_of_issued hc, hdecode]
  exact exec_send_starts hb hbr he

/-- RECV with the engine free and the channel not broken (rule R118). -/
theorem exec_recv_starts {s : State} (hb : s.rxBusy = false) (hbr : s.broken = false) :
    exec .recv s =
      .next { s with rxBusy := true, expired := false, rxTimeout := s.timeout, chan := s.chan.beginRecv } := by
  simp [exec, execRecv, hb, hbr]

/-- The step that accepts a RECV, the engine free and the channel not broken (rule R118). -/
theorem step_of_recv {s : State} (hc : s.cmdIssued = true) (hcmd : s.cmd = 6) (hb : s.rxBusy = false)
    (hbr : s.broken = false) :
    step s = .next { s with cmdIssued := false, rxBusy := true, expired := false, rxTimeout := s.timeout, chan := s.chan.beginRecv } := by
  have hdecode : decodeCommand s.cmd = .recv := by rw [hcmd]; rfl
  rw [step_of_issued hc, hdecode]
  exact exec_recv_starts hb hbr

/-- Running on from a step that answers a state. -/
theorem steps_succ {n : Nat} {s t : State} (h : step s = .next t) : steps (n + 1) s = steps n t := by
  simp [steps, h]

/-! ### A whole SEND (rules R49, R110, R111) -/

/-- An idle schedule and a SEND in flight whose external channel has the answers `counts` ahead of `ws`, which together
accept exactly what is left, the last of them its last byte. -/
structure Flushing (s : State) (counts : List Nat) (ws : List WriteAnswer) : Prop where
  notIssued : s.cmdIssued = false
  idle : s.inputs = []
  busy : s.txBusy = true
  external : s.chan.kind = .external
  writable : s.chan.writable = true
  writes : s.chan.writes = counts.map .count ++ ws
  total : s.txoff + counts.sum = s.txframe.length
  short : ∀ n, n < counts.length → s.txoff + (counts.take n).sum < s.txframe.length

/-- The state after the SEND in flight has put all its bytes on the TX stream, with the answers `ws` left (rule R111). -/
def State.flushed (ws : List WriteAnswer) (s : State) : State :=
  { s with txoff := s.txframe.length, txBusy := false, txStatus := 1, txErrTag := 0, chan := { s.chan with writes := ws, txStream := s.chan.txStream ++ s.txframe.drop s.txoff } }

/-- The state after one `ChWrite` of the SEND in flight has been answered `c`, with the answers `ws` left (rule R111). -/
def State.wrote (c : Nat) (ws : List WriteAnswer) (s : State) : State :=
  { s with txoff := s.txoff + c, chan := { s.chan with writes := ws, txStream := s.chan.txStream ++ (s.txframe.drop s.txoff).take c } }

/-- The TX engine moves by itself and makes the next of its writes (assumption log 19). -/
theorem Flushing.step_eq {s : State} {c : Nat} {counts : List Nat} {ws : List WriteAnswer}
    (h : Flushing s (c :: counts) ws) :
    step s = .next (txAdvance c (s.wrote c (counts.map .count ++ ws)).chan s) := by
  have hs : s.chan.writes = .count c :: (counts.map .count ++ ws) := h.writes
  have hready : txReady s = true := by simp [txReady, h.busy, hs]
  have ho : s.txoff < s.txframe.length := h.short 0 (Nat.zero_lt_succ _)
  have hle : c ≤ (s.txframe.drop s.txoff).length := by
    have := h.total
    rw [List.sum_cons] at this
    rw [List.length_drop]
    omega
  rw [step_of_free h.notIssued h.idle, if_pos hready]
  exact txTurn_of_accepted h.busy ho (chWrite_external_count h.external h.writable hs hle)

/-- The last write of a SEND ends it. -/
theorem Flushing.step_last {s : State} {c : Nat} {ws : List WriteAnswer} (h : Flushing s [c] ws) :
    step s = .next (s.flushed ws) := by
  have hc : s.txoff + c = s.txframe.length := by simpa using h.total
  have hall : (s.txframe.drop s.txoff).take c = s.txframe.drop s.txoff :=
    List.take_of_length_le (by rw [List.length_drop]; omega)
  rw [h.step_eq, txAdvance_of_eq hc, State.wrote, hall, hc]
  rfl

/-- A write with more to come leaves a SEND that the other answers flush. -/
theorem Flushing.step_more {s : State} {c : Nat} {counts : List Nat} {ws : List WriteAnswer}
    (h : Flushing s (c :: counts) ws) (hne : counts ≠ []) :
    step s = .next (s.wrote c (counts.map .count ++ ws)) ∧ Flushing (s.wrote c (counts.map .count ++ ws)) counts ws := by
  have short (n : Nat) (hn : n < counts.length) : s.txoff + c + (counts.take n).sum < s.txframe.length := by
    have := h.short (n + 1) (Nat.succ_lt_succ hn)
    rwa [List.take_succ_cons, List.sum_cons, ← Nat.add_assoc] at this
  have hmore : s.txoff + c < s.txframe.length := short 0 (List.length_pos_iff.mpr hne)
  have htotal := h.total
  rw [List.sum_cons, ← Nat.add_assoc] at htotal
  exact ⟨h.step_eq.trans (congrArg _ (txAdvance_of_lt hmore)),
    { notIssued := h.notIssued, idle := h.idle, busy := h.busy, external := h.external, writable := h.writable
      writes := rfl, total := htotal, short := short }⟩

/-- Flushing what one write has left ends where flushing everything does. -/
theorem flushed_wrote (s : State) (c : Nat) (ws ws' : List WriteAnswer) : (s.wrote c ws').flushed ws = s.flushed ws := by
  have hbytes : (s.txframe.drop s.txoff).take c ++ s.txframe.drop (s.txoff + c) = s.txframe.drop s.txoff := by
    rw [← List.drop_drop, List.take_append_drop]
  simp [State.flushed, State.wrote, hbytes]

/-- A SEND in flight is flushed, one turn for each answer. -/
theorem Flushing.steps_eq {counts : List Nat} {ws : List WriteAnswer} (hne : counts ≠ []) :
    ∀ {s : State}, Flushing s counts ws → steps counts.length s = .next (s.flushed ws) := by
  induction counts with
  | nil => exact absurd rfl hne
  | cons c counts ih =>
    intro s h
    cases counts with
    | nil => exact steps_succ h.step_last
    | cons c' counts =>
      obtain ⟨hstep, hrest⟩ := h.step_more (List.cons_ne_nil _ _)
      rw [List.length_cons, steps_succ hstep, ih (List.cons_ne_nil _ _) hrest, flushed_wrote]

/-- Settles O34: SEND latches the frame, and the writes that follow flush it. -/
theorem sendFlushesTheWholeFrame : Obligations.SendFlushesTheWholeFrame := by
  intro s counts ws hc hcmd hi hb hbr hid hlen hts hk hopen hwf hrf hw htotal hshort
  refine ⟨s.msgIn.frameBytes, rfl, ?_⟩
  have hstart := step_of_send hc hcmd hb hbr (encodeMessage_eq_frameBytes hid hlen hts)
  rw [(begin_eq hwf hrf).1] at hstart
  have hsize := frameBytes_length hlen
  have hflush : Flushing { s with cmdIssued := false, txframe := s.msgIn.frameBytes, txoff := 0, txBusy := true } counts ws :=
    { notIssued := rfl, idle := hi, busy := rfl, external := hk, writes := hw
      writable := by simp [Channel.writable, hopen, hwf]
      total := by simp [htotal, hsize]
      short := fun n hn => by simpa [hsize] using hshort n hn }
  have hne : counts ≠ [] := by
    rintro rfl
    rw [List.sum_nil] at htotal
    omega
  rw [steps_succ hstart, hflush.steps_eq hne]
  simp [State.flushed, hb]

/-! ### The two streams (rules R40, R45, R46, R49, R50, R52) -/

/-- What a step that is no reset may do to the streams and the buffer: `bs`, a beginning of what the SEND in flight has
left, joins the TX stream, and the RX stream too if the channel is a loopback; the first `k` bytes of the RX stream go to
the end of the buffer, of which `n` bytes have been dropped. -/
def StreamsMove (s t : State) : Prop :=
  ∃ k n bs, k ≤ s.chan.rxStream.length ∧ bs <+: s.txframe.drop s.txoff ∧ (s.txBusy = false → bs = []) ∧
    t.chan.txStream = s.chan.txStream ++ bs ∧
    t.chan.rxStream = s.chan.rxStream.drop k ++ (if s.chan.kind = .loopback then bs else []) ∧
    t.rxbuf = s.rxbuf.drop n ++ s.chan.rxStream.take k

/-- A step that leaves streams and buffer alone is such a step. -/
theorem streamsMove_of_eq {s t : State} (htx : t.chan.txStream = s.chan.txStream) (hrx : t.chan.rxStream = s.chan.rxStream)
    (hbuf : t.rxbuf = s.rxbuf) : StreamsMove s t :=
  ⟨0, 0, [], Nat.zero_le _, List.nil_prefix, fun _ => rfl, by simp [htx], by simp [hrx], by simp [hbuf]⟩

theorem CommandStep.streamsMove {s t : State} {c : BitVec 4} (h : CommandStep s c t) : StreamsMove s t := by
  cases h <;> exact streamsMove_of_eq rfl rfl rfl

theorem HostWrite.streamsMove {s t : State} (h : HostWrite s t) : StreamsMove s t := by
  cases h <;> exact streamsMove_of_eq rfl rfl rfl

/-- A `ChWrite` that fails leaves both streams as they were (rules R45, R47). -/
theorem chWrite_failed_streams {ch ch' : Channel} {bs : List Byte} (h : chWrite ch bs = .failed ch') :
    ch'.txStream = ch.txStream ∧ ch'.rxStream = ch.rxStream := by
  rcases chWrite_failed h with ⟨-, rfl⟩ | ⟨-, ws, -, rfl⟩ <;> exact ⟨rfl, rfl⟩

/-- A `ChRead` that fails leaves both streams as they were (rules R46, R47). -/
theorem chRead_failed_streams {ch ch' : Channel} {max : Nat} {d : Timeout} (h : chRead ch max d = .failed ch') :
    ch'.txStream = ch.txStream ∧ ch'.rxStream = ch.rxStream := by
  rcases chRead_failed h with ⟨-, rfl⟩ | ⟨-, rs, -, rfl⟩ <;> exact ⟨rfl, rfl⟩

/-- A `ChWrite` that accepts `c` bytes of what it is offered joins them to the TX stream, and to a loopback queue (rules
R45, R52). -/
theorem chWrite_accepted_streams {ch ch' : Channel} {bs : List Byte} {c : Nat} (h : chWrite ch bs = .accepted c ch') :
    ch'.txStream = ch.txStream ++ bs.take c ∧
      ch'.rxStream = ch.rxStream ++ (if ch.kind = .loopback then bs.take c else []) := by
  obtain ⟨-, -, ws, rfl⟩ := chWrite_accepted h
  obtain ⟨htx, -, -, -, -, -, -, hext, hloop⟩ := accept_fields (bs.take c) { ch with writes := ws }
  refine ⟨htx, ?_⟩
  split
  next hk => exact hloop hk
  next hk =>
    have hk' : ch.kind = .external := by cases h : ch.kind <;> simp_all
    rw [hext hk', List.append_nil]

/-- What a SEND in flight writes is a beginning of what it has left. -/
theorem streamsMove_of_accepted {s t : State} {c : Nat} {ch : Channel} (hb : s.txBusy = true)
    (hw : chWrite s.chan (s.txframe.drop s.txoff) = .accepted c ch) (hch : t.chan = ch) (hbuf : t.rxbuf = s.rxbuf) :
    StreamsMove s t := by
  subst hch
  obtain ⟨htx, hrx⟩ := chWrite_accepted_streams hw
  exact ⟨0, 0, (s.txframe.drop s.txoff).take c, Nat.zero_le _, List.take_prefix _ _,
    fun hb' => absurd (hb.symm.trans hb') nofun, htx, hrx, by simp [hbuf]⟩

/-- A turn of the TX engine moves bytes onto the TX stream only. -/
theorem TxStep.streamsMove {s t : State} (h : TxStep s t) : StreamsMove s t := by
  cases h with
  | stays | done => exact streamsMove_of_eq rfl rfl rfl
  | failed _ ch hw =>
    obtain ⟨htx, hrx⟩ := chWrite_failed_streams hw
    exact streamsMove_of_eq htx hrx rfl
  | goesOn hb c ch hw | ends hb c ch hw => exact streamsMove_of_accepted hb hw rfl rfl

/-- What follows a DECODE without a frame moves bytes from the RX stream to the end of the buffer only. -/
theorem ReadStep.moves {s t : State} (h : ReadStep s t) :
    t.chan.txStream = s.chan.txStream ∧
      ∃ k, k ≤ s.chan.rxStream.length ∧ t.chan.rxStream = s.chan.rxStream.drop k ∧
        t.rxbuf = s.rxbuf ++ s.chan.rxStream.take k := by
  cases h with
  | waits | timedOut => exact ⟨rfl, 0, Nat.zero_le _, rfl, (List.append_nil _).symm⟩
  | failed ch hr =>
    obtain ⟨htx, hrx⟩ := chRead_failed_streams hr
    exact ⟨htx, 0, Nat.zero_le _, hrx, (List.append_nil _).symm⟩
  | reads _ bs e ch hr =>
    obtain ⟨k, rs, -, hk, rfl, rfl, -, -⟩ := chRead_bytes hr
    exact ⟨rfl, k, hk, rfl, rfl⟩

/-- A turn of the RX engine moves bytes from the RX stream to the end of the buffer only. -/
theorem RxStep.streamsMove {s t : State} (h : RxStep s t) : StreamsMove s t := by
  cases h with
  | idle => exact streamsMove_of_eq rfl rfl rfl
  | needMore _ arm buf pos hd _ h =>
    obtain ⟨htx, k, hk, hrx, hbuf⟩ := h.moves
    have hdrop : ∃ n, buf = s.rxbuf.drop n := by
      rcases decodeBuffer_needMore_buffer hd with ⟨rfl, -⟩ | ⟨-, rfl, -⟩
      · exact ⟨0, rfl⟩
      · exact ⟨s.rxbuf.length, List.drop_length.symm⟩
    obtain ⟨n, rfl⟩ := hdrop
    exact ⟨k, n, [], hk, List.nil_prefix, fun _ => rfl, htx.trans (List.append_nil _).symm,
      hrx.trans (by simp [State.needingMore]), hbuf⟩
  | delivers _ f p =>
    exact ⟨0, p + 11 + f.data.length, [], Nat.zero_le _, List.nil_prefix, fun _ => rfl, (List.append_nil _).symm,
      by simp [deliver], (List.append_nil _).symm⟩

/-- Every step that is no reset is such a step. -/
theorem step_streamsMove {s t : State} (h : step s = .next t) (hr : ¬ s.resetNext) : StreamsMove s t := by
  cases step_cases h with
  | command _ _ h => exact h.streamsMove
  | reset hr' => exact absurd hr' hr
  | host _ _ _ h => exact h.streamsMove
  | tx _ _ _ h => exact h.streamsMove
  | rx _ _ _ h => exact h.streamsMove

/-- Settles O51: the receive side of what every step may do to the streams. -/
theorem everyByteReadIsAppended : Obligations.EveryByteReadIsAppended := by
  intro s t h hr
  obtain ⟨k, n, bs, hk, -, -, htx, hrx, hbuf⟩ := step_streamsMove h hr
  exact ⟨k, n, bs, hk, htx, hrx, hbuf⟩

/-- Settles O52: the transmit side of the same. -/
theorem transmitStreamOnlyGrows : Obligations.TransmitStreamOnlyGrows := by
  intro s t h hr
  obtain ⟨-, -, bs, -, hprefix, hidle, htx, -, -⟩ := step_streamsMove h hr
  exact ⟨bs, htx, hprefix, hidle⟩

/-! ### The engines apart (rule R51) -/

/-- The channel `ch` with the transmit direction of `c`. -/
def Channel.withTx (ch c : Channel) : Channel :=
  { ch with txStream := c.txStream, writes := c.writes, writeFailed := c.writeFailed }

/-- The channel `ch` with the receive direction of `c`. -/
def Channel.withRx (ch c : Channel) : Channel :=
  { ch with rxStream := c.rxStream, reads := c.reads, readFailed := c.readFailed }

/-- The state `s` with the transmitter of `t`; what both engines write, `broken`, is set if it is in either. -/
def State.withTx (s t : State) : State :=
  { s with txoff := t.txoff, txBusy := t.txBusy, txStatus := t.txStatus, txErrTag := t.txErrTag, broken := s.broken || t.broken, chan := s.chan.withTx t.chan }

/-- The state `s` with the receiver of `t`. -/
def State.withRx (s t : State) : State :=
  { s with rxbuf := t.rxbuf, sp := t.sp, fsm := t.fsm, rxBusy := t.rxBusy, rxStatus := t.rxStatus, rxMsgOut := t.rxMsgOut, expired := t.expired, broken := s.broken || t.broken, free := t.free, chan := s.chan.withRx t.chan }

/-- Taking over the transmitter of one state and the receiver of another can be done in either order. -/
theorem withTx_withRx_comm (s t v : State) : (s.withRx v).withTx t = (s.withTx t).withRx v := by
  simp only [State.withTx, State.withRx, Bool.or_right_comm]
  rfl

/-- On an external channel a turn of the TX engine changes the transmitter only. -/
theorem TxStep.eq_withTx {s t : State} (h : TxStep s t) (hk : s.chan.kind = .external) : t = s.withTx t := by
  cases h with
  | stays | done => simp [State.withTx, Channel.withTx, sendDone, State.endOp]
  | failed _ ch hw =>
    rcases chWrite_failed hw with ⟨-, rfl⟩ | ⟨-, ws, -, rfl⟩ <;>
      simp [State.withTx, Channel.withTx, State.breakChannel, State.endOp]
  | goesOn _ c ch hw | ends _ c ch hw =>
    obtain ⟨-, -, ws, rfl⟩ := chWrite_accepted hw
    rw [accept_external (by exact hk)]
    simp [State.withTx, Channel.withTx, sendDone, State.endOp]

/-- A `ChRead` changes the receive direction only. -/
theorem ReadStep.eq_withRx {s t : State} (h : ReadStep s t) : t = s.withRx t := by
  cases h with
  | waits | timedOut => simp [State.withRx, Channel.withRx, State.endOp]
  | failed ch hr =>
    rcases chRead_failed hr with ⟨-, rfl⟩ | ⟨-, rs, -, rfl⟩ <;>
      simp [State.withRx, Channel.withRx, State.breakChannel, State.endOp]
  | reads _ bs e ch hr =>
    obtain ⟨k, rs, -, -, rfl, rfl, -, -⟩ := chRead_bytes hr
    simp [State.withRx, Channel.withRx, State.rxAppend]

/-- A turn of the RX engine changes the receiver only. -/
theorem RxStep.eq_withRx {s t : State} (h : RxStep s t) : t = s.withRx t := by
  cases h with
  | idle => simp [State.withRx, Channel.withRx]
  | needMore _ arm buf pos _ _ h => exact h.eq_withRx
  | delivers => simp [State.withRx, Channel.withRx, deliver, State.endOp, State.rxDrop]

/-- Settles O54: what a turn answers is its state with the engine's own part replaced, and `broken` only ever set. -/
theorem enginesWriteDisjointState : Obligations.EnginesWriteDisjointState := by
  intro s t rest hc hk h
  refine ⟨fun hi => ?tx, fun hi => ?rx⟩
  case tx =>
    rw [step_of_txTurn hc hi] at h
    have htx := txTurn_step h
    have heq := htx.eq_withTx hk
    rw [State.withTx, Bool.or_eq_right_iff_imp.mpr htx.broken] at heq
    exact heq
  case rx =>
    rw [step_of_rxTurn hc hi] at h
    have hrx := rxTurn_step h
    have heq := hrx.eq_withRx
    rw [State.withRx, Bool.or_eq_right_iff_imp.mpr hrx.broken] at heq
    exact heq

/-! ### Turns in either order (rules R51, R152) -/

/-- The answer of a step with its state, if it has one, replaced. -/
def Result.map (g : State → State) : Result → Result
  | .next t => .next (g t)
  | .fault r => .fault r
  | .refused r => .refused r

theorem Result.map_eq_next {g : State → State} {r : Result} {t : State} :
    Result.map g r = .next t ↔ ∃ u, r = .next u ∧ g u = t := by
  cases r <;> simp [Result.map]

/-- The answer of a `ChWrite` with its channel, if it has one, replaced. -/
def WriteResult.map (g : Channel → Channel) : WriteResult → WriteResult
  | .waiting => .waiting
  | .breach => .breach
  | .failed ch => .failed (g ch)
  | .accepted c ch => .accepted c (g ch)

/-- The answer of a `ChRead` with its channel, if it has one, replaced. -/
def ReadResult.map (g : Channel → Channel) : ReadResult → ReadResult
  | .waiting => .waiting
  | .breach => .breach
  | .failed ch => .failed (g ch)
  | .bytes bs e ch => .bytes bs e (g ch)

/-- A `ChWrite` on an external channel reads and writes nothing of the receive direction. -/
theorem chWrite_withRx {ch : Channel} (hk : ch.kind = .external) (c : Channel) (bs : List Byte) :
    chWrite (ch.withRx c) bs = (chWrite ch bs).map (·.withRx c) := by
  have hwr : (ch.withRx c).writable = ch.writable := rfl
  cases hw : ch.writable with
  | false => simp [chWrite_of_not_writable, hw, hwr, WriteResult.map]
  | true =>
    rcases hs : ch.writes with _ | ⟨n | _, ws⟩
    · rw [chWrite_waiting_iff.mpr ⟨hw, hk, hs⟩]
      exact chWrite_waiting_iff.mpr ⟨hw, hk, hs⟩
    · by_cases hn : n ≤ bs.length
      · rw [chWrite_external_count hk hw hs hn, chWrite_external_count (ch := ch.withRx c) hk hw hs hn]
        rfl
      · have hgt := Nat.not_le.mp hn
        rw [chWrite_count hw hs, chWrite_count (ch := ch.withRx c) hw hs, acceptCount_of_gt hgt, acceptCount_of_gt hgt]
        rfl
    · rw [chWrite_fail hk hw hs, chWrite_fail (ch := ch.withRx c) hk hw hs]
      rfl

/-- A `ChRead` on an external channel reads and writes nothing of the transmit direction. -/
theorem chRead_withTx {ch : Channel} (hk : ch.kind = .external) (c : Channel) (max : Nat) (d : Timeout) :
    chRead (ch.withTx c) max d = (chRead ch max d).map (·.withTx c) := by
  have hrd : (ch.withTx c).readable = ch.readable := rfl
  cases hr : ch.readable with
  | false => simp [chRead_of_not_readable, hr, hrd, ReadResult.map]
  | true =>
    rcases hs : ch.reads with _ | ⟨⟨k, e⟩ | _, rs⟩
    · rw [chRead_unscripted hk hr hs, chRead_unscripted (ch := ch.withTx c) hk hr hs]
      cases d <;> rfl
    · by_cases hex : max < k ∨ ch.rxStream.length < k
      · rw [chRead_of_excess hk hr hs hex, chRead_of_excess (ch := ch.withTx c) hk hr hs hex]
        rfl
      · rw [chRead_external_bytes hk hr hs hex, chRead_external_bytes (ch := ch.withTx c) hk hr hs hex]
        rfl
    · rw [chRead_fail hk hr hs, chRead_fail (ch := ch.withTx c) hk hr hs]
      rfl

/-- A turn of the TX engine on an external channel does the same whatever the receiver holds. -/
theorem txTurn_withRx {s : State} (hk : s.chan.kind = .external) (v : State) :
    txTurn (s.withRx v) = Result.map (·.withRx v) (txTurn s) := by
  have hw : chWrite (s.withRx v).chan ((s.withRx v).txframe.drop (s.withRx v).txoff) = _ :=
    chWrite_withRx hk v.chan (s.txframe.drop s.txoff)
  simp only [txTurn, apply_ite (Result.map _)]
  rw [hw]
  cases chWrite s.chan (s.txframe.drop s.txoff) with
  | accepted c ch =>
    simp only [WriteResult.map, Result.map, txAdvance_eq, apply_ite (State.withRx · v)]
    rfl
  | _ => rfl

/-- What follows a DECODE without a frame, on an external channel, does the same whatever the transmitter holds. -/
theorem rxNeedMore_withTx {s : State} (hk : s.chan.kind = .external) (t : State) :
    rxNeedMore (s.withTx t) = Result.map (·.withTx t) (rxNeedMore s) := by
  have hr : chRead (s.withTx t).chan (s.withTx t).build.maxRead.val (s.withTx t).rxTimeout = _ :=
    chRead_withTx hk t.chan s.build.maxRead.val s.rxTimeout
  simp only [rxNeedMore, apply_ite (Result.map _)]
  rw [hr]
  cases chRead s.chan s.build.maxRead.val s.rxTimeout <;> rfl

/-- A turn of the RX engine on an external channel does the same whatever the transmitter holds. -/
theorem rxTurn_withTx {s : State} (hk : s.chan.kind = .external) (t : State) :
    (rxTurn (s.withTx t)).result = Result.map (·.withTx t) (rxTurn s).result := by
  cases hb : s.rxBusy with
  | false =>
    rw [rxTurn_of_idle hb, rxTurn_of_idle (s := s.withTx t) hb]
    rfl
  | true =>
    rcases hd : decodeBuffer s.build.earlyDlcReject s.rxbuf s.sp with ⟨arm | ⟨f, consumed, frameEnd⟩, buf, p⟩
    · rw [rxTurn_of_needMore hb hd, rxTurn_of_needMore (s := s.withTx t) hb hd]
      exact rxNeedMore_withTx (s := { s with rxbuf := buf, sp := p, fsm := arm.fsm }) hk t
    · rw [rxTurn_of_frame hb hd, rxTurn_of_frame (s := s.withTx t) hb hd]
      rfl

/-- The state `s` with another schedule. -/
def State.withInputs (l : List Input) (s : State) : State := { s with inputs := l }

/-- A turn of the TX engine does not look at the schedule. -/
theorem txTurn_withInputs (l : List Input) (s : State) :
    txTurn (s.withInputs l) = Result.map (State.withInputs l) (txTurn s) := by
  have hw : chWrite (s.withInputs l).chan ((s.withInputs l).txframe.drop (s.withInputs l).txoff) =
    chWrite s.chan (s.txframe.drop s.txoff) := rfl
  simp only [txTurn, apply_ite (Result.map _)]
  rw [hw]
  cases chWrite s.chan (s.txframe.drop s.txoff) with
  | accepted c ch =>
    simp only [Result.map, txAdvance_eq, apply_ite (State.withInputs l)]
    rfl
  | _ => rfl

/-- What follows a DECODE without a frame does not look at the schedule. -/
theorem rxNeedMore_withInputs (l : List Input) (s : State) :
    rxNeedMore (s.withInputs l) = Result.map (State.withInputs l) (rxNeedMore s) := by
  have hr : chRead (s.withInputs l).chan (s.withInputs l).build.maxRead.val (s.withInputs l).rxTimeout =
    chRead s.chan s.build.maxRead.val s.rxTimeout := rfl
  simp only [rxNeedMore, apply_ite (Result.map _)]
  rw [hr]
  cases chRead s.chan s.build.maxRead.val s.rxTimeout <;> rfl

/-- A turn of the RX engine does not look at the schedule. -/
theorem rxTurn_withInputs (l : List Input) (s : State) :
    (rxTurn (s.withInputs l)).result = Result.map (State.withInputs l) (rxTurn s).result := by
  cases hb : s.rxBusy with
  | false =>
    rw [rxTurn_of_idle hb, rxTurn_of_idle (s := s.withInputs l) hb]
    rfl
  | true =>
    rcases hd : decodeBuffer s.build.earlyDlcReject s.rxbuf s.sp with ⟨arm | ⟨f, consumed, frameEnd⟩, buf, p⟩
    · rw [rxTurn_of_needMore hb hd, rxTurn_of_needMore (s := s.withInputs l) hb hd]
      exact rxNeedMore_withInputs l { s with rxbuf := buf, sp := p, fsm := arm.fsm }
    · rw [rxTurn_of_frame hb hd, rxTurn_of_frame (s := s.withInputs l) hb hd]
      rfl

/-- Two steps whose answers are known up to a change of state. -/
theorem steps_two_eq_next {s v : State} {r r' : Result} {g : State → State} {g' : State → State → State}
    (first : step s = Result.map g r) (second : ∀ t, r = .next t → step (g t) = Result.map (g' t) r') :
    steps 2 s = .next v ↔ ∃ t u, r = .next t ∧ r' = .next u ∧ g' t u = v := by
  cases r with
  | next t =>
    have hstep := second t rfl
    cases r' <;> simp_all [steps, Result.map]
  | _ => simp [steps, first, Result.map]

/-- A schedule that begins with a TX turn gives the turn with what follows it scheduled. -/
theorem step_withInputs_txTurn {s : State} (hc : s.cmdIssued = false) (l : List Input) :
    step (s.withInputs (.txTurn :: l)) = txTurn (s.withInputs l) :=
  step_of_txTurn (s := s.withInputs (.txTurn :: l)) hc rfl

/-- A schedule that begins with an RX turn gives the turn with what follows it scheduled. -/
theorem step_withInputs_rxTurn {s : State} (hc : s.cmdIssued = false) (l : List Input) :
    step (s.withInputs (.rxTurn :: l)) = (rxTurn (s.withInputs l)).result :=
  step_of_rxTurn (s := s.withInputs (.rxTurn :: l)) hc rfl

section turns
variable {s : State} {rest : List Input}

/-- A TX turn and then an RX turn: the receiver of the RX turn alone, the transmitter of the TX turn alone. -/
theorem steps_tx_rx (hc : s.cmdIssued = false) (hk : s.chan.kind = .external) {v : State} :
    steps 2 (s.withInputs (.txTurn :: .rxTurn :: rest)) = .next v ↔
      ∃ t u, txTurn (s.withInputs rest) = .next t ∧ (rxTurn (s.withInputs rest)).result = .next u ∧ u.withTx t = v := by
  refine steps_two_eq_next (g := State.withInputs (.rxTurn :: rest)) (g' := fun t u => u.withTx t)
    ((step_withInputs_txTurn hc _).trans (txTurn_withInputs _ (s.withInputs rest))) fun t ht => ?_
  have heq : t = (s.withInputs rest).withTx t := (txTurn_step ht).eq_withTx hk
  have hc' : t.cmdIssued = false := by rw [heq]; exact hc
  calc step (t.withInputs (.rxTurn :: rest)) = (rxTurn (t.withInputs rest)).result := step_withInputs_rxTurn hc' rest
    _ = (rxTurn ((s.withInputs rest).withTx t)).result :=
      congrArg (fun u : State => (rxTurn (u.withInputs rest)).result) heq
    _ = Result.map (·.withTx t) (rxTurn (s.withInputs rest)).result := rxTurn_withTx (s := s.withInputs rest) hk t

/-- An RX turn and then a TX turn: the transmitter of the TX turn alone, the receiver of the RX turn alone. -/
theorem steps_rx_tx (hc : s.cmdIssued = false) (hk : s.chan.kind = .external) {v : State} :
    steps 2 (s.withInputs (.rxTurn :: .txTurn :: rest)) = .next v ↔
      ∃ u t, (rxTurn (s.withInputs rest)).result = .next u ∧ txTurn (s.withInputs rest) = .next t ∧ t.withRx u = v := by
  refine steps_two_eq_next (g := State.withInputs (.txTurn :: rest)) (g' := fun u t => t.withRx u)
    ((step_withInputs_rxTurn hc _).trans (rxTurn_withInputs _ (s.withInputs rest))) fun u hu => ?_
  have heq : u = (s.withInputs rest).withRx u := (rxTurn_step hu).eq_withRx
  have hc' : u.cmdIssued = false := by rw [heq]; exact hc
  calc step (u.withInputs (.txTurn :: rest)) = txTurn (u.withInputs rest) := step_withInputs_txTurn hc' rest
    _ = txTurn ((s.withInputs rest).withRx u) := congrArg (fun v : State => txTurn (v.withInputs rest)) heq
    _ = Result.map (·.withRx u) (txTurn (s.withInputs rest)) := txTurn_withRx (s := s.withInputs rest) hk u

end turns

/-- Settles O55: either order answers exactly when both turns answer alone, and joins what they answer. -/
theorem engineTurnsCommute : Obligations.EngineTurnsCommute := by
  intro s v rest hc hk
  have join {t u : State} (ht : txTurn (s.withInputs rest) = .next t) (hu : (rxTurn (s.withInputs rest)).result = .next u) :
      u.withTx t = t.withRx u := by
    have htx := (txTurn_step ht).eq_withTx hk
    have hrx := (rxTurn_step hu).eq_withRx
    calc u.withTx t = ((s.withInputs rest).withRx u).withTx t := congrArg (State.withTx · t) hrx
      _ = ((s.withInputs rest).withTx t).withRx u := withTx_withRx_comm _ t u
      _ = t.withRx u := (congrArg (State.withRx · u) htx).symm
  refine (steps_tx_rx hc hk).trans (Iff.trans ⟨?_, ?_⟩ (steps_rx_tx hc hk).symm)
  · rintro ⟨t, u, ht, hu, rfl⟩
    exact ⟨u, t, hu, ht, (join ht hu).symm⟩
  · rintro ⟨u, t, hu, ht, rfl⟩
    exact ⟨t, u, ht, hu, join ht hu⟩

/-! ### A failed channel after reset (rules R47, R161) -/

/-- A channel that is closed or has failed in a direction fails every operation accepted after that (rules R47, R161). -/
theorem begin_of_down {ch : Channel} (h : ch.isOpen = false ∨ ch.writeFailed = true ∨ ch.readFailed = true) :
    ch.beginSend.writable = false ∧ ch.beginRecv.readable = false := by
  rcases h with h | h
  · simp [Channel.writable, Channel.readable, h]
  · exact begin_failed h

/-- An empty buffer holds no START (rule R96). -/
theorem decodeBuffer_nil (early : Bool) : decodeBuffer early [] 0 = (.needMore .noStart, [], 0) := rfl

/-- Settles O60: reset keeps the channel, the command that follows finds its failure, and its first call fails. -/
theorem resetDoesNotMendTheChannel : Obligations.ResetDoesNotMendTheChannel := by
  intro s rest hc hdown
  obtain ⟨hwrite, hread⟩ := begin_of_down hdown
  refine ⟨fun d hi => ?recv, fun m hid hlen hts hi => ?send⟩
  case recv =>
    have hsteps := calc
      steps 5 s = steps 4 _ := steps_succ (step_of_host hc hi)
      _ = steps 3 _ := steps_succ (step_of_host rfl rfl)
      _ = steps 2 _ := steps_succ (step_of_host rfl rfl)
      _ = steps 1 _ := steps_succ (step_of_recv rfl rfl rfl rfl)
      _ = steps 0 _ := steps_succ ((step_of_needMore rfl rfl rfl (decodeBuffer_nil _)).trans
        (rxNeedMore_of_failed rfl (chRead_of_not_readable hread _ _)))
    exact ⟨_, hsteps, rfl, rfl, rfl, rfl, rfl, rfl⟩
  case send =>
    have hleft : 0 < m.frameBytes.length := by
      rw [frameBytes_length hlen]
      omega
    have hsteps := calc
      steps 5 s = steps 4 _ := steps_succ (step_of_host hc hi)
      _ = steps 3 _ := steps_succ (step_of_host rfl rfl)
      _ = steps 2 _ := steps_succ (step_of_host rfl rfl)
      _ = steps 1 _ := steps_succ (step_of_send rfl rfl rfl rfl (encodeMessage_eq_frameBytes hid hlen hts))
      _ = steps 0 _ := steps_succ (step_of_write_failed rfl rfl rfl hleft (chWrite_of_not_writable hwrite _))
    exact ⟨_, hsteps, rfl, rfl, rfl, rfl, rfl⟩

end Sys2Proof.Machine
end

section
/-! PROOFS. The statements of 30_encoding.md: decode and encode (rules R60 to R73), the one frame of a Message (rule R72, with
law L1 of rule R85), and what the command codes and the frame forms do (rules R26, R73, R121, R140). -/

namespace Sys2Proof

/-! ### Instructions are commands or frames (rules R4, R68, R73) -/

theorem Frame.wf_iff {f : Frame} {n : Nat} : f.wf n = true ↔ f.data.length = n := beq_iff_eq

/-- A command code is decoded whatever it is (rule R73). -/
theorem decode_command (c : BitVec 4) : decode (.command c) = .ok (decodeCommand c) := rfl

/-- The codes 8 to 15 keep their low three bits (rule R73). -/
theorem decodeCommand_reserved8To15 (r : BitVec 3) : decodeCommand (1#1 ++ r) = .reserved8To15 r := by
  revert r
  decide

/-- The bytes of a frame alone are decoded to its frame form (rules R60, R68). -/
theorem decode_encodeFields {f : Frame} (h : f.data.length ≤ 8) : decode (.frame (encodeFields f)) = .ok f.instr := by
  have hd := decodeFields_encodeFields_append f [] h
  rw [List.append_nil] at hd
  simp only [decode, hd]

/-- Every well-formed row of the table is a code of the command port or a frame of at most 8 bytes (rules R4, R68, R73). -/
theorem command_or_frame {i : Instr} (h : i.WellFormed) :
    (∃ c, i = decodeCommand c ∧ encode i = .command c) ∨
      ∃ f : Frame, f.data.length ≤ 8 ∧ i = f.instr ∧ encode i = .frame (encodeFields f) := by
  cases i with
  | nop => exact .inl ⟨0, rfl, rfl⟩
  | msgNew => exact .inl ⟨1, rfl, rfl⟩
  | msgEq => exact .inl ⟨2, rfl, rfl⟩
  | encode => exact .inl ⟨3, rfl, rfl⟩
  | decode => exact .inl ⟨4, rfl, rfl⟩
  | send => exact .inl ⟨5, rfl, rfl⟩
  | recv => exact .inl ⟨6, rfl, rfl⟩
  | reserved7 => exact .inl ⟨7, rfl, rfl⟩
  | reserved8To15 r => exact .inl ⟨1#1 ++ r, (decodeCommand_reserved8To15 r).symm, rfl⟩
  | frameD0 f | frameD1 f | frameD2 f | frameD3 f | frameD4 f | frameD5 f | frameD6 f | frameD7 f | frameD8 f =>
    have hl := Frame.wf_iff.mp h
    exact .inr ⟨f, by omega, by simp only [Frame.instr, hl], rfl⟩

/-- Settles O1: a command by its code, a frame by reading its fields back. -/
theorem decodeEncodeRoundTrip : Obligations.DecodeEncodeRoundTrip := by
  intro i hi
  rcases command_or_frame hi with ⟨c, hc, he⟩ | ⟨f, hl, hf, he⟩
  · rw [he, decode_command, hc]
  · rw [he, decode_encodeFields hl, hf]

/-- Settles O2: the codes by computation, vector F5 as the encoding of its frame. -/
theorem sampleWordsDecode : Obligations.SampleWordsDecode :=
  ⟨rfl, rfl, rfl, rfl, rfl, rfl, rfl, rfl, rfl,
    decode_encodeFields (f := { ms := 250, id := 0x10, data := [0x7F] }) (by decide), rfl⟩

/-! ### The bytes of a frame (rules R60, R61, R68, R72) -/

/-- The first byte of the id field is at most `0x1F`: the reserved bits above it are zero (rules R65, R91 E2). -/
theorem id_byte_le (i : BitVec 29) : ((i.setWidth 32).extractLsb' 24 8).toNat ≤ 0x1F := by
  have h := reservedIdBits_setWidth i
  rw [← be32_bytesBe32 (i.setWidth 32)] at h
  exact (reservedIdBits_be32 _ _ _ _).mp h

/-- END stands behind the payload (rules R66, R67). -/
theorem encodeFields_getElem?_end (f : Frame) : (encodeFields f)[10 + f.data.length]? = some Config.endByte := by
  rw [← List.getElem?_drop, drop_encodeFields, List.getElem?_concat_length]

/-- Settles O3, offset by offset. -/
theorem frameLengthAndShape : Obligations.FrameLengthAndShape := by
  intro f h
  have hl := encodeFields_length f
  refine ⟨hl, by omega, by omega, ?start, ?dlc, ⟨_, ?idByte, id_byte_le f.id⟩, encodeFields_getElem?_end f⟩
  all_goals rw [encodeFields_eq]; rfl

/-- Settles O5: each field is the assembly of its bytes, and taking it apart again gives them back. -/
theorem decodedBytesAreTheFrame : Obligations.DecodedBytesAreTheFrame := by
  intro bs f rest h
  obtain ⟨t0, t1, t2, t3, n, i0, i1, i2, i3, hbs, hn, hl, hr, hms, hid⟩ := decodeFields_ok h
  have hdlc : BitVec.ofNat 8 f.data.length = n := by rw [hl, BitVec.ofNat_toNat, BitVec.setWidth_eq]
  refine ⟨?_, hl ▸ hn⟩
  rw [hbs, encodeFields_eq, hms, hid, setWidth_id_of_reserved hr, hdlc, bytesBe32_be32, bytesBe32_be32]
  simp

/-- Different frames have different bytes (rule R72). -/
theorem encodeFields_inj {f g : Frame} (hf : f.data.length ≤ 8) (hg : g.data.length ≤ 8) :
    encodeFields f = encodeFields g ↔ f = g := by
  refine ⟨fun h => ?_, congrArg encodeFields⟩
  have hd := decodeFields_encodeFields_append f [] hf
  rw [h, decodeFields_encodeFields_append g [] hg] at hd
  cases hd
  rfl

end Sys2Proof

namespace Sys2Proof.Machine

/-! ### A wire value survives seconds (rules R83 to R85) -/

section quantise
open Float64

/-- The magnitude under `TsQuant`: milliseconds, rounded once (rule R83). -/
theorem fmul_msPerS {t : F64} (h : sign t = false) :
    fmul t Config.msPerS = ofRat (mag t * (1000 * one)) (one * one) := by
  rw [fmul, mag_msPerS.1, mag_msPerS.2, h]
  rfl

/-- A magnitude below `2^a` has its leading bit below `a + 1074`, counted in units of 2^-1074. -/
theorem log2_lt_of_lt_mul_one {x a : Nat} (h0 : x ≠ 0) (h : x < 2 ^ a * one) : Nat.log2 x < a + 1074 :=
  (Nat.log2_lt h0).mpr (h.trans_eq (pow_mul_one a))

/-- A product that is normal and below `2^33` is rounded by at most one part in `2^53` (rules R11, R83). -/
theorem fmul_msPerS_error {t : F64} (hs : sign t = false) (hlo : 2 ^ 52 ≤ mag t * 1000) (hhi : mag t * 1000 < 2 ^ 33 * one) :
    sign (fmul t Config.msPerS) = false ∧
      2 ^ 53 * (mag t * 1000) ≤ 2 ^ 53 * mag (fmul t Config.msPerS) + mag t * 1000 ∧
      2 ^ 53 * mag (fmul t Config.msPerS) ≤ 2 ^ 53 * (mag t * 1000) + mag t * 1000 := by
  have hpos : 0 < one * one := Nat.mul_pos unit_pos unit_pos
  have hnum : mag t * (1000 * one) * one = mag t * 1000 * (one * one) := by ring
  have hquot : mag t * (1000 * one) * one / (one * one) = mag t * 1000 := by
    rw [hnum, Nat.mul_div_cancel _ hpos]
  have hlog : Nat.log2 (mag t * (1000 * one) * one / (one * one)) < 2096 := by
    have := log2_lt_of_lt_mul_one (by omega) hhi
    rw [hquot]
    omega
  obtain ⟨e1, e2⟩ := mag_ofRat_error _ _ hpos hlog (hlo.trans_eq hquot.symm)
  have hsign := (mag_ofRat _ _ hpos hlog).2.2
  rw [← fmul_msPerS hs] at e1 e2 hsign
  rw [hnum] at e1 e2
  refine ⟨hsign, ?_, ?_⟩
  · exact Nat.le_of_mul_le_mul_right (by linarith) hpos
  · exact Nat.le_of_mul_le_mul_right (by linarith) hpos

/-- Law L1 (rule R85): two roundings of one part in `2^53` move a 32-bit count by less than a half. -/
theorem tsQuant_tsDequant (k : Word32) : tsQuant (tsDequant k) = k := by
  rcases Nat.eq_zero_or_pos k.toNat with h0 | hk
  · obtain rfl : k = 0 := BitVec.eq_of_toNat_eq h0
    decide +kernel
  · have hk32 := k.isLt
    obtain ⟨d1, d2⟩ := tsDequant_error k hk
    have hone : 2 ^ 53 ≤ one := by decide +kernel
    have hklo : one ≤ k.toNat * one := Nat.le_mul_of_pos_left _ hk
    have hkhi : k.toNat * one < 2 ^ 32 * one := Nat.mul_lt_mul_of_pos_right hk32 unit_pos
    obtain ⟨hsign, q1, q2⟩ := fmul_msPerS_error (tsDequant_finite k).2 (by omega) (by omega)
    have hround : roundHalfEven (mag (fmul (tsDequant k) Config.msPerS)) one = k.toNat :=
      roundHalfEven_eq _ _ _ (by rw [add_mul, mul_assoc]; omega) (by rw [mul_assoc]; omega)
    rw [tsQuant, rintEven, hsign, hround]
    simp

/-- `TsDequant(k)` is a valid timestamp: it does not exceed that of the greatest wire value (rules R80, R85 L2). -/
theorem tsValid_tsDequant (k : Word32) : tsValid (tsDequant k) = true := by
  obtain ⟨hexp, hsign⟩ := tsDequant_finite k
  have hmax : tsDequant 4294967295 = Config.tsMax := by decide +kernel
  have hle : mag (tsDequant k) ≤ mag Config.tsMax := by
    rw [← hmax, tsDequant_eq, tsDequant_eq]
    refine mag_ofRat_mono thousand_one_pos (tsDequant_log _) (Nat.mul_le_mul_right _ ?_)
    exact Nat.le_of_lt_succ k.isLt
  have hnan : isNaN (tsDequant k) = false := by
    simp only [isNaN, Bool.and_eq_false_iff, beq_eq_false_iff_ne]
    exact .inl (by omega)
  rw [tsValid_iff_value, value_of_sign hsign]
  exact ⟨hnan, by omega, by exact_mod_cast hle⟩

end quantise

/-! ### The one frame of a Message (rule R72) -/

/-- A Message violates nothing when all three invariants hold (rule R80). -/
theorem violation_eq_none_iff {m : Message} :
    violation m = none ↔ m.id.toNat ≤ 536870911 ∧ m.data.length ≤ 8 ∧ tsValid m.ts = true := by
  have hid : Config.idMax = 536870911 := rfl
  have hdlc : Config.maxDlc = 8 := rfl
  unfold violation
  split_ifs with h1 h2 h3
  · simp only [false_iff]
    omega
  · simp only [false_iff]
    omega
  · simp [h3]
  · exact iff_of_true rfl ⟨by omega, by omega, by simpa using h3⟩

/-- ENCODE of a valid Message (rule R90). -/
theorem encodeMessage_of_valid {m : Message} (h : violation m = none) : encodeMessage m = .ok (encodeFields m.frame) := by
  simp only [encodeMessage, h]

/-- A 29-bit identifier register is determined by its low 29 bits (rules R21, R65). -/
theorem setWidth_id_inj {x y : Word32} (hx : x.toNat ≤ 536870911) (hy : y.toNat ≤ 536870911) :
    x.setWidth 29 = y.setWidth 29 ↔ x = y := by
  simp only [← BitVec.toNat_inj, BitVec.toNat_setWidth]
  omega

/-- What the Message of a frame is encoded to is that frame (rules R90, R100). -/
theorem frameMessage_frame (f : Frame) : (frameMessage f).frame = f := by
  have hid : (f.id.setWidth 32).setWidth 29 = f.id := by simp
  simp only [frameMessage, Message.frame, tsQuant_tsDequant, hid]

/-- The Message of a frame is valid (rules R21, R85 L2). -/
theorem violation_frameMessage {f : Frame} (h : f.data.length ≤ 8) : violation (frameMessage f) = none := by
  rw [violation_eq_none_iff]
  refine ⟨?_, h, tsValid_tsDequant f.ms⟩
  have := f.id.isLt
  simp only [frameMessage, BitVec.toNat_setWidth]
  omega

/-- Settles O6: a frame determines its fields and is determined by them, and law L1 makes them those of its Message. -/
theorem encodingIsCanonical : Obligations.EncodingIsCanonical := by
  refine ⟨fun a b ha hb => ?messages, fun bs f h => ?candidate⟩
  case messages =>
    obtain ⟨haid, halen, -⟩ := violation_eq_none_iff.mp ha
    obtain ⟨hbid, hblen, -⟩ := violation_eq_none_iff.mp hb
    rw [encodeMessage_of_valid ha, encodeMessage_of_valid hb, Except.ok.injEq, encodeFields_inj halen hblen,
      Message.frame, Message.frame, Frame.mk.injEq, setWidth_id_inj haid hbid]
    tauto
  case candidate =>
    obtain ⟨hbs, hlen⟩ := decodedBytesAreTheFrame bs f [] h
    rw [encodeMessage_of_valid (violation_frameMessage hlen), frameMessage_frame, hbs, List.append_nil]

/-! ### The command port and the frame forms (rules R26, R73, R121, R140) -/

/-- Settles O25: NOP's meaning is the state it is given. -/
theorem nopChangesNothing : Obligations.NopChangesNothing := fun _ => rfl

/-- Settles O26: both rows are `State.refuse` on the host's port. -/
theorem reservedCodesAreRefused : Obligations.ReservedCodesAreRefused := fun _ _ => ⟨rfl, rfl⟩

/-- Settles O27: the step runs `decodeCommand`, which is what `decode` answers. -/
theorem stepRunsTheIssuedCommand : Obligations.StepRunsTheIssuedCommand := by
  intro s i hc hd
  rw [decode_command] at hd
  cases hd
  exact step_of_issued hc

/-- Delivery drops the frame and hands its Message over (rules R27, R100, R121). -/
theorem deliversFrame_deliver (f : Frame) (s : State) (h : f.data.length ≤ 8) :
    DeliversFrame f s (.next (deliver f.data.length f s)) := by
  refine ⟨.ofFrame (Config.freeByte s.free) f, s.free + 1, rfl, rfl, ?len, lanes_take 8 _ f.data h, rfl, rfl, rfl⟩
  change (BitVec.ofNat 8 f.data.length).toNat = _
  rw [BitVec.toNat_ofNat]
  omega

/-- The frame form of a frame delivers it (rules R60, R121). -/
theorem deliversFrame_exec_instr (f : Frame) (s : State) (h : f.data.length ≤ 8) : DeliversFrame f s (exec f.instr s) := by
  rw [exec_frame f s h]
  exact deliversFrame_deliver f s h

/-- Settles O29: each form is that of a frame of its length. -/
theorem everyFrameFormIsDelivered : Obligations.EveryFrameFormIsDelivered := by
  intro s f
  have h := deliversFrame_exec_instr f s
  refine ⟨?_, ?_, ?_, ?_, ?_, ?_, ?_, ?_, ?_⟩
  all_goals
    intro hl
    simpa only [Frame.instr, hl, Nat.reduceLeDiff, forall_const] using h

end Sys2Proof.Machine
end

section
/-! PROOFS. The statements of 40_message.md: `Violation` and its order (rule R80), the timestamp conversions and their laws
(rules R83 to R85), MSG.NEW (rule R81), MSG.EQ (rule R82), and RangeError (rules R136, R143). -/

namespace Sys2Proof.Machine

/-! ### The timestamp conversions (rules R83 to R85) -/

/-- Settles O10: law L1. -/
theorem quantUndoesDequant : Obligations.QuantUndoesDequant := tsQuant_tsDequant

section quantise
open Float64

/-- A valid timestamp counts as its magnitude, `-0.0` included (rules R11, R80). -/
theorem value_of_tsValid {t : F64} (h : tsValid t = true) : value t = mag t := by
  cases hs : sign t with
  | false => exact value_of_sign hs
  | true =>
    obtain rfl := (tsValid_iff_of_neg hs).mp h
    decide

theorem mag_le_of_tsValid {t : F64} (h : tsValid t = true) : mag t ≤ mag Config.tsMax := by
  obtain ⟨-, -, hle⟩ := (tsValid_iff_value t).mp h
  rw [value_of_tsValid h] at hle
  exact_mod_cast hle

/-- The two roundings of `TsQuant` on a magnitude: of the product, and to a whole number of milliseconds (rule R83). -/
def milliseconds (m : Nat) : Nat := roundHalfEven (mag (ofRat (m * (1000 * one)) (one * one))) one

/-- No product of rule R83 comes near the overflow threshold. -/
theorem product_log {m : Nat} (h : m ≤ mag Config.tsMax) : Nat.log2 (m * (1000 * one) * one / (one * one)) < 2096 := by
  have hquot : m * (1000 * one) * one / (one * one) = m * 1000 := by
    rw [show m * (1000 * one) * one = m * 1000 * (one * one) by ring, Nat.mul_div_cancel _ (Nat.mul_pos unit_pos unit_pos)]
  rw [hquot]
  by_cases h0 : m * 1000 = 0
  · simp [h0]
  · have hmax : mag Config.tsMax * 1000 < 2 ^ 33 * one := by decide +kernel
    have := log2_lt_of_lt_mul_one h0 ((Nat.mul_le_mul_right 1000 h).trans_lt hmax)
    omega

/-- Both roundings preserve order. -/
theorem milliseconds_mono {m n : Nat} (h : m ≤ n) (hn : n ≤ mag Config.tsMax) : milliseconds m ≤ milliseconds n := by
  have hprod : mag (ofRat (m * (1000 * one)) (one * one)) ≤ mag (ofRat (n * (1000 * one)) (one * one)) :=
    mag_ofRat_mono (Nat.mul_pos unit_pos unit_pos) (product_log hn) (Nat.mul_le_mul_right _ h)
  exact roundHalfEven_mono unit_pos unit_pos (Nat.mul_le_mul_right _ hprod)

/-- The result fits 32 bits on the whole valid range (rule R83). -/
theorem milliseconds_lt {m : Nat} (h : m ≤ mag Config.tsMax) : milliseconds m < 2 ^ 32 := by
  have hmax : milliseconds (mag Config.tsMax) = 4294967295 := by decide +kernel
  have := milliseconds_mono h le_rfl
  omega

/-- `TsQuant` of a valid timestamp depends on its magnitude alone (rule R83). -/
theorem tsQuant_toNat {t : F64} (h : tsValid t = true) : (tsQuant t).toNat = milliseconds (mag t) := by
  have hle := mag_le_of_tsValid h
  cases hs : sign t with
  | false =>
    have hsign : sign (ofRat (mag t * (1000 * one)) (one * one)) = false :=
      (mag_ofRat _ _ (Nat.mul_pos unit_pos unit_pos) (product_log hle)).2.2
    have hround : rintEven (fmul t Config.msPerS) = milliseconds (mag t) := by
      rw [fmul_msPerS hs, rintEven, hsign]
      rfl
    rw [tsQuant, hround, BitVec.ofInt_natCast, BitVec.toNat_ofNat, Nat.mod_eq_of_lt (milliseconds_lt hle)]
  | true =>
    obtain rfl := (tsValid_iff_of_neg hs).mp h
    decide +kernel

/-- The quotient of rule R84 does not fall when the wire value does not. -/
theorem mag_tsDequant_mono {j k : Word32} (h : j.toNat ≤ k.toNat) : mag (tsDequant j) ≤ mag (tsDequant k) := by
  rw [tsDequant_eq, tsDequant_eq]
  exact mag_ofRat_mono thousand_one_pos (tsDequant_log k) (Nat.mul_le_mul_right _ h)

/-- IEEE `<=` of valid timestamps is the order of their magnitudes (rules R11, R80). -/
theorem le_iff_mag_le {a b : F64} (ha : tsValid a = true) (hb : tsValid b = true) :
    Float64.le a b = true ↔ mag a ≤ mag b := by
  obtain ⟨hna, -⟩ := (tsValid_iff_value a).mp ha
  obtain ⟨hnb, -⟩ := (tsValid_iff_value b).mp hb
  simp [Float64.le, hna, hnb, value_of_tsValid ha, value_of_tsValid hb]

/-- Settles O11: both conversions are monotone roundings of magnitudes. -/
theorem quantAndDequantAreMonotone : Obligations.QuantAndDequantAreMonotone := by
  refine ⟨fun a b ha hb hle => ?quant, fun j k hjk => ?dequant⟩
  case quant =>
    rw [tsQuant_toNat ha, tsQuant_toNat hb]
    exact milliseconds_mono ((le_iff_mag_le ha hb).mp hle) (mag_le_of_tsValid hb)
  case dequant =>
    exact (le_iff_mag_le (tsValid_tsDequant j) (tsValid_tsDequant k)).mpr (mag_tsDequant_mono hjk)

end quantise

/-- What O8 says of the timestamps that are not valid. -/
theorem tsValid_eq_false_iff (t : F64) :
    tsValid t = false ↔ 0x4150624DD2E147AE < t.toNat ∧ t ≠ 0x8000000000000000 := by
  rw [← Bool.not_eq_true, validTimestampBitPatterns t, not_or, Nat.not_le]

/-- Settles O9: table X by the bit patterns of the valid timestamps (O8), table T and TsDequant by evaluation. -/
theorem timestampTables : Obligations.TimestampTables :=
  have valid := fun t => (validTimestampBitPatterns t).mpr
  have invalid := fun t => (tsValid_eq_false_iff t).mpr
  ⟨valid _ (by decide), invalid _ (by decide), invalid _ (by decide), invalid _ (by decide), invalid _ (by decide),
    invalid _ (by decide), invalid _ (by decide), valid _ (by decide), invalid _ (by decide), by decide +kernel⟩

/-! ### `Violation` (rule R80) -/

theorem violation_of_id {m : Message} (h : 536870911 < m.id.toNat) : violation m = some .arbitrationId := if_pos h

theorem violation_of_length {m : Message} (hid : m.id.toNat ≤ 536870911) (h : 8 < m.data.length) :
    violation m = some .payloadLength :=
  (if_neg (Nat.not_lt.mpr hid)).trans (if_pos h)

theorem violation_of_timestamp {m : Message} (hid : m.id.toNat ≤ 536870911) (hlen : m.data.length ≤ 8)
    (h : tsValid m.ts = false) : violation m = some .timestamp :=
  (if_neg (Nat.not_lt.mpr hid)).trans ((if_neg (Nat.not_lt.mpr hlen)).trans (if_pos h))

/-- The timestamp invariant as rule R80 writes it. -/
theorem tsValid_iff_le (t : F64) :
    tsValid t = true ↔ Float64.le 0 t = true ∧ Float64.le t 0x4150624DD2E147AE = true :=
  Bool.and_eq_true_iff

/-- Settles O7: the four cases of rule R80 exclude each other, and each has its answer. -/
theorem violationNamesTheFirst : Obligations.ViolationNamesTheFirst := by
  intro m
  rw [← tsValid_iff_le]
  rcases Nat.lt_or_ge 536870911 m.id.toNat with hid | hid
  · simp [violation_of_id hid, hid]
  rcases Nat.lt_or_ge 8 m.data.length with hlen | hlen
  · simp [violation_of_length hid hlen, hid, hlen]
  cases hts : tsValid m.ts with
  | false => simp [violation_of_timestamp hid hlen hts, hid, hlen]
  | true => simp [violation_eq_none_iff.mpr ⟨hid, hlen, hts⟩, hid, hlen]

/-- Settles O12: the fields of an accepted frame are in range (rules R21, R70). -/
theorem decodedMessagesAreValid : Obligations.DecodedMessagesAreValid := fun bs f rest h =>
  violation_frameMessage (decodedBytesAreTheFrame bs f rest h).2

/-! ### RangeError (rules R80, R136, R143) -/

/-- MSG.NEW on an operand that violates an invariant (rule R81). -/
theorem exec_msgNew_of_violation {s : State} {v : RangeTag} (h : violation s.operand = some v) :
    exec .msgNew s = .next { s with status := 5, errTag := v.code } := by
  simp only [exec, execMsgNew, h]
  rfl

/-- ENCODE on an operand that violates an invariant (rule R90). -/
theorem exec_encode_of_violation {s : State} {v : RangeTag} (h : violation s.operand = some v) :
    exec .encode s = .next { s with status := 5, errTag := v.code } := by
  simp only [exec, execEncode, encodeMessage, h]
  rfl

/-- The length of an operand's data is the register's `len` (rule R26). -/
theorem operand_length (s : State) : s.operand.data.length = s.msgIn.len.toNat := operand_data_length _ s.msgIn

/-- Settles O14: both commands answer with the tag of `Violation`. -/
theorem invalidOperandIsRangeError : Obligations.InvalidOperandIsRangeError := by
  intro s i hi
  have hexec : ∀ v, violation s.operand = some v → exec i s = .next { s with status := 5, errTag := v.code } := by
    intro v hv
    rcases hi with rfl | rfl
    · exact exec_msgNew_of_violation hv
    · exact exec_encode_of_violation hv
  exact ⟨fun hid => hexec _ (violation_of_id hid),
    fun hid hlen => hexec _ (violation_of_length hid (hlen.trans_eq (operand_length s).symm)),
    fun hid hlen hts => hexec _ (violation_of_timestamp hid ((operand_length s).trans_le hlen) hts)⟩

/-! ### MSG.NEW (rule R81) -/

/-- MSG.NEW on an operand that violates nothing (rules R27, R81). -/
theorem exec_msgNew_of_valid {s : State} (h : violation s.operand = none) :
    exec .msgNew s = .next
      { s with
        status := 2
        errTag := 0
        msgOut := .ofMessage (Config.freeByte s.free) s.operand (tsQuant s.msgIn.ts)
        free := s.free + 1 } := by
  simp only [exec, execMsgNew, h]
  rfl

/-- MSG_OUT after the Message of an operand register holds that register's fields and its first `len` lanes (rule R27). -/
theorem ofMessage_operand_data (fill fill' : Nat → Byte) (m : MsgIn) (tsMs : Word32) {k : Nat} (h : k < 8)
    (hk : k < m.len.toNat) : (MsgOut.ofMessage fill (m.operand fill') tsMs).data[k] = m.data[k] := by
  have hlen : k < (m.operand fill').data.length := by rwa [operand_data_length]
  have hlane := operand_data_getElem? fill' m h hk
  rw [List.getElem?_eq_getElem hlen, Option.some.injEq] at hlane
  exact (lanes_getElem 8 fill _ h hlen).trans hlane

/-- Settles O13: field by field of the Message handed back. -/
theorem msgNewHandsBackTheOperand : Obligations.MsgNewHandsBackTheOperand := by
  refine fun s => ⟨fun hid hlen hts => ?valid, fun v hv => exec_msgNew_of_violation hv⟩
  have hv : violation s.operand = none := violation_eq_none_iff.mpr ⟨hid, (operand_length s).trans_le hlen, hts⟩
  refine ⟨_, _, exec_msgNew_of_valid hv, rfl, ?len, rfl, rfl, rfl, fun k h hk => ofMessage_operand_data _ _ _ _ h hk⟩
  change BitVec.ofNat 8 s.operand.data.length = s.msgIn.len
  rw [operand_length, BitVec.ofNat_toNat, BitVec.setWidth_eq]

/-! ### MSG.EQ (rule R82) -/

/-- Equal data has equal length, so `dlc` needs no test of its own (rules R21, R82). -/
theorem Message.equal_iff {a b : Message} : a.equal b = true ↔ a.id = b.id ∧ a.data = b.data := by
  simp only [Message.equal, Bool.and_eq_true, beq_iff_eq]
  exact ⟨fun ⟨⟨hid, _⟩, hdata⟩ => ⟨hid, hdata⟩, fun ⟨hid, hdata⟩ => ⟨⟨hid, congrArg _ hdata⟩, hdata⟩⟩

/-- Operands with equal data agree in `len` and in every lane below it (rule R26). -/
theorem lanes_of_operand_data_eq {fill fill' : Nat → Byte} {a b : MsgIn}
    (h : (a.operand fill).data = (b.operand fill').data) :
    a.len = b.len ∧ ∀ (k : Nat) (h8 : k < 8), k < a.len.toNat → a.data[k] = b.data[k] := by
  have hlen : a.len = b.len := by
    have := congrArg List.length h
    rw [operand_data_length, operand_data_length] at this
    exact BitVec.eq_of_toNat_eq this
  refine ⟨hlen, fun k h8 hk => Option.some.inj ?_⟩
  rw [← operand_data_getElem? fill a h8 hk, h, operand_data_getElem? fill' b h8 (hlen ▸ hk)]

/-- Operands that are not over-long and agree in `len` and in every lane below it have equal data (rule R26). -/
theorem operand_data_eq_of_lanes {fill fill' : Nat → Byte} {a b : MsgIn} (h8 : a.len.toNat ≤ 8) (hlen : a.len = b.len)
    (h : ∀ (k : Nat) (hk8 : k < 8), k < a.len.toNat → a.data[k] = b.data[k]) :
    (a.operand fill).data = (b.operand fill').data := by
  refine List.ext_getElem? fun k => ?_
  rcases Nat.lt_or_ge k a.len.toNat with hk | hk
  · have hk8 : k < 8 := by omega
    rw [operand_data_getElem? fill a hk8 hk, operand_data_getElem? fill' b hk8 (hlen ▸ hk), h k hk8 hk]
  · rw [List.getElem?_eq_none (by rwa [operand_data_length]), List.getElem?_eq_none (by rwa [operand_data_length, ← hlen])]

/-- Settles O15: equality of the operands' identifiers and data, read in the registers. -/
theorem msgEqComparesIdAndData : Obligations.MsgEqComparesIdAndData := by
  refine fun s => ⟨s.operand.equal s.operand2, s.free + 2, rfl, fun he => ?sound, fun h8 hid hlen hdata => ?complete⟩
  case sound =>
    obtain ⟨hid, hdata⟩ := Message.equal_iff.mp he
    exact ⟨hid, lanes_of_operand_data_eq hdata⟩
  case complete =>
    exact Message.equal_iff.mpr ⟨hid, operand_data_eq_of_lanes h8 hlen hdata⟩

end Sys2Proof.Machine
end

section
/-! PROOFS. The statements of 41_encode.md: ENCODE (rule R90) and the round trip of the codec (rule R92). -/

namespace Sys2Proof.Machine

/-! ### ENCODE (rule R90) -/

/-- ENCODE on an operand whose frame is `bytes` (rules R27, R90). -/
theorem exec_encode_of_ok {s : State} {bytes : List Byte} (h : encodeMessage s.operand = .ok bytes) :
    exec .encode s = .next
      { s with
        status := 1
        errTag := 0
        frameOut := .ofBytes (Config.freeByte s.free) bytes
        free := s.free + 1 } := by
  simp only [exec, execEncode, h]
  rfl

/-- FRAME_OUT after a frame of at most 19 bytes holds the frame's length and its bytes (rules R27, R61). -/
theorem ofBytes_holds (fill : Nat → Byte) {bs : List Byte} (h : bs.length ≤ 19) :
    (FrameOut.ofBytes fill bs).len.toNat = bs.length ∧ (FrameOut.ofBytes fill bs).bytes.toList.take bs.length = bs := by
  refine ⟨?len, lanes_take 19 fill bs h⟩
  rw [FrameOut.ofBytes, BitVec.toNat_ofNat]
  omega

/-- Settles O16: FRAME_OUT is wide enough for the frame of every valid operand. -/
theorem encodeWritesTheFrame : Obligations.EncodeWritesTheFrame := by
  refine fun s => ⟨fun hid hlen hts => ?valid, fun v hv => exec_encode_of_violation hv⟩
  have hbytes := frameBytes_length hlen
  obtain ⟨hl, hb⟩ := ofBytes_holds (Config.freeByte s.free) (bs := s.msgIn.frameBytes) (by omega)
  rw [hbytes] at hl hb
  exact ⟨_, _, exec_encode_of_ok (encodeMessage_eq_frameBytes hid hlen hts), hl, hb⟩

/-! ### The round trip of the codec (rule R92) -/

/-- DECODE on the bytes of a frame alone answers that frame (rules R60, R100, R102). -/
theorem decodeBuffer_encodeFields (early : Bool) {f : Frame} (h : f.data.length ≤ 8) :
    decodeBuffer early (encodeFields f) 0 = (.frame f (11 + f.data.length) (11 + f.data.length), encodeFields f, 0) := by
  have hd := decodeFields_encodeFields_append f [] h
  rw [List.append_nil] at hd
  have hhere := decodeBuffer_here (early := early) (buf := encodeFields f) (p := 0) hd
  rwa [Nat.zero_add] at hhere

/-- An identifier in range survives the 29 bits of the wire (rules R6, R65). -/
theorem setWidth_id {x : Word32} (h : x.toNat ≤ 536870911) : (x.setWidth 29).setWidth 32 = x := by
  apply BitVec.eq_of_toNat_eq
  simp only [BitVec.toNat_setWidth]
  omega

/-- The Message of a valid Message's frame is that Message with its timestamp quantised, on an extended identifier (rules
R83, R84, R100). -/
theorem frameMessage_of_valid {m : Message} (h : violation m = none) :
    frameMessage m.frame = { id := m.id, data := m.data, ts := tsDequant (tsQuant m.ts), ext := true } := by
  obtain ⟨hid, -, -⟩ := violation_eq_none_iff.mp h
  rw [frameMessage, Message.frame, setWidth_id hid]

/-- Settles O22: the frame DECODE finds is the one ENCODE wrote, and only the timestamp of its Message has changed. -/
theorem decodeUndoesEncode : Obligations.DecodeUndoesEncode := by
  intro early m hm
  obtain ⟨-, hlen, -⟩ := violation_eq_none_iff.mp hm
  have hback := frameMessage_of_valid hm
  refine ⟨encodeFields m.frame, m.frame, encodeMessage_of_valid hm, decodeBuffer_encodeFields early hlen, hback, ?equal⟩
  rw [hback]
  exact Message.equal_iff.mpr ⟨rfl, rfl⟩

end Sys2Proof.Machine
end

section
/-! PROOFS. The statements of 42_decode.md: DECODE1 arm by arm (rules R95 to R101), DECODE and what it leaves (rules R102 to
R106), resynchronisation and chunk independence (rule R104), and DECODE on the command port and in the RX engine's turn. -/

namespace Sys2Proof.Machine

/-! ### DECODE over bytes that head no frame (rules R96, R101, R102) -/

/-- What DECODE does with an answer of DECODE1: it passes NeedMoreData and Frame on, and goes round again on Corrupt (rule
R102). -/
def afterDecode1 (early : Bool) : Decode1Outcome × List Byte × Nat → DecodeOutcome × List Byte × Nat
  | (.needMore arm, buf, pos) => (.needMore arm, buf, pos)
  | (.frame f consumed frameEnd, buf, pos) => (.frame f consumed frameEnd, buf, pos)
  | (.corrupt, buf, pos) => decodeBuffer early buf pos

/-- The recursion equation of DECODE (rule R102): its fuel never runs out. -/
theorem decodeBuffer_eq_afterDecode1 (early : Bool) (buf : List Byte) (pos : Nat) :
    decodeBuffer early buf pos = afterDecode1 early (decode1 early buf pos) := by
  have ha := decode1_answer early buf pos
  conv => lhs; rw [decodeBuffer, decodeLoop]
  generalize decode1 early buf pos = r at ha
  cases ha with
  | reject p h hr =>
    have := h.lt
    have := h.1
    exact decodeLoop_fuel early buf _ _ (p + 1) (by omega) (by omega)
  | _ => rfl

/-- A byte that is no START is passed over by the scan (rule R96). -/
theorem findStart_succ {buf : List Byte} {pos : Nat} (h : buf[pos]? ≠ some Config.startByte) :
    findStart buf pos = findStart buf (pos + 1) := by
  ext p
  rw [findStart_eq_some_iff, findStart_eq_some_iff]
  constructor
  · rintro ⟨hpos, hs, hfirst⟩
    have hne : pos ≠ p := fun he => h (he ▸ hs)
    exact ⟨by omega, hs, fun i hi => hfirst i (by omega)⟩
  · rintro ⟨hpos, hs, hfirst⟩
    refine ⟨by omega, hs, fun i hi hip => ?_⟩
    rcases hi.eq_or_lt with rfl | hlt
    · exact h
    · exact hfirst i hlt hip

/-- DECODE passes over one byte that is no START or heads a rejected candidate (rules R96, R101). -/
theorem decodeBuffer_succ {early : Bool} {buf : List Byte} {pos : Nat}
    (h : buf[pos]? = some Config.startByte → RejectedAt early buf pos) :
    decodeBuffer early buf pos = decodeBuffer early buf (pos + 1) := by
  by_cases hs : buf[pos]? = some Config.startByte
  · exact decodeBuffer_of_rejected ⟨Nat.le_refl pos, hs, fun i hi hip => by omega⟩ (h hs)
  · rw [decodeBuffer_eq_afterDecode1, decodeBuffer_eq_afterDecode1, decode1, decode1, findStart_succ hs]

/-- DECODE passes over any bytes whose every START heads a rejected candidate (rule R104, P4). -/
theorem decodeBuffer_of_starts_rejected {early : Bool} {buf : List Byte} {pos q : Nat} (hpq : pos ≤ q)
    (h : ∀ i, pos ≤ i → i < q → buf[i]? = some Config.startByte → RejectedAt early buf i) :
    decodeBuffer early buf pos = decodeBuffer early buf q := by
  induction q, hpq using Nat.le_induction with
  | base => rfl
  | succ q hpq ih =>
    calc decodeBuffer early buf pos
        = decodeBuffer early buf q := ih fun i hi hiq => h i hi (by omega)
      _ = decodeBuffer early buf (q + 1) := decodeBuffer_succ (h q hpq (Nat.lt_succ_self q))

/-- Settles O23: the noise is rejected whatever follows the frame, and the frame stands where DECODE then looks. -/
theorem frameBehindRejectedNoiseIsFound : Obligations.FrameBehindRejectedNoiseIsFound := by
  intro early noise f after hf hnoise
  have hskip : decodeBuffer early (noise ++ encodeFields f ++ after) 0 =
      decodeBuffer early (noise ++ encodeFields f ++ after) noise.length := by
    refine decodeBuffer_of_starts_rejected (Nat.zero_le _) fun i _ hi hs => (hnoise i hi ?_).append after
    rwa [List.append_assoc, List.getElem?_append_left hi] at hs
  have hframe : decodeFields ((noise ++ encodeFields f ++ after).drop noise.length) = .ok (f, after) := by
    rw [List.append_assoc, List.drop_left]
    exact decodeFields_encodeFields_append f after hf
  rw [hskip, decodeBuffer_here hframe]

/-! ### DECODE1 arm by arm (rules R95 to R101) -/

/-- The byte at offset 5 of an accepted candidate is its payload's length (rules R64, R99). -/
theorem accepted_dlc {buf : List Byte} {p : Nat} {f : Frame} {rest : List Byte}
    (hd : decodeFields (buf.drop p) = .ok (f, rest)) : (buf.getD (p + 5) 0).toNat = f.data.length := by
  obtain ⟨t0, t1, t2, t3, n, i0, i1, i2, i3, hbs, -, hl, -⟩ := decodeFields_ok hd
  rw [← getD_drop, hbs, hl]
  rfl

/-- DECODE1 has one answer: what satisfies `Decode1Answer` is what it answers (rule R95). -/
theorem Decode1Answer.eq {early : Bool} {buf : List Byte} {pos : Nat} {r : Decode1Outcome × List Byte × Nat}
    (h : Decode1Answer early buf pos r) : decode1 early buf pos = r := by
  have h11 : Config.fixedLen = 11 := rfl
  have h8 : Config.maxDlc = 8 := rfl
  cases h with
  | noStart h => rw [decode1, findStart_eq_none_iff.mpr h]
  | header p h ha => simp only [decode1, findStart_eq_some_iff.mpr h, h11, if_pos ha]
  | frame p h ha hn he =>
    have hwait : ¬ (early = true ∧ 8 < (buf.getD (p + 5) 0).toNat) := fun hc => Nat.not_lt.mpr (he hc.1) hc.2
    simp only [decode1, findStart_eq_some_iff.mpr h, decodeCandidate, h11, h8, if_neg (Nat.not_lt.mpr ha), if_pos hn,
      if_neg hwait]
  | accept p h f rest hd =>
    have hl := accepted_length hd
    simp only [decode1, findStart_eq_some_iff.mpr h, decodeCandidate, verdict, h11, accepted_dlc hd, hd]
    rw [if_neg (by omega), if_neg (by omega)]
  | reject p h hr => exact decode1_of_rejected h hr

/-- The bytes from an index of the buffer on: the byte there, and the bytes after it. -/
theorem drop_eq_getD_cons {buf : List Byte} {i : Nat} (h : i < buf.length) :
    buf.drop i = buf.getD i 0 :: buf.drop (i + 1) := by
  rw [List.drop_eq_getElem_cons h, List.getD_eq_getElem _ _ h]

/-- From a START with a whole header behind it, the checks are those of its fields (rules R62 to R65, R99). -/
theorem decodeFields_drop {buf : List Byte} {p : Nat} (hs : buf[p]? = some Config.startByte) (hl : p + 11 ≤ buf.length) :
    decodeFields (buf.drop p) =
      checkCandidate (be32 (buf.getD (p + 1) 0) (buf.getD (p + 2) 0) (buf.getD (p + 3) 0) (buf.getD (p + 4) 0))
        (buf.getD (p + 5) 0)
        (be32 (buf.getD (p + 6) 0) (buf.getD (p + 7) 0) (buf.getD (p + 8) 0) (buf.getD (p + 9) 0)) (buf.drop (p + 10)) := by
  have hstart : buf.getD p 0 = Config.startByte := by rw [List.getD_eq_getElem?_getD, hs]; rfl
  rw [drop_eq_getD_cons (i := p) (by omega), drop_eq_getD_cons (i := p + 1) (by omega),
    drop_eq_getD_cons (i := p + 2) (by omega), drop_eq_getD_cons (i := p + 3) (by omega),
    drop_eq_getD_cons (i := p + 4) (by omega), drop_eq_getD_cons (i := p + 5) (by omega),
    drop_eq_getD_cons (i := p + 6) (by omega), drop_eq_getD_cons (i := p + 7) (by omega),
    drop_eq_getD_cons (i := p + 8) (by omega), drop_eq_getD_cons (i := p + 9) (by omega),
    drop_eq_getD_cons (i := p + 10) (by omega), hstart]
  rfl

/-- A complete candidate's bytes from offset 10 on: `n` bytes, the byte where END is looked for, and what follows. -/
theorem drop_eq_slice_append {buf : List Byte} {i n : Nat} (h : i + n < buf.length) :
    buf.drop i = slice buf i n ++ buf.getD (i + n) 0 :: buf.drop (i + n + 1) := by
  rw [← drop_eq_getD_cons h, slice, ← List.drop_drop, List.take_append_drop]

/-- The fields of the candidate at `p`, whatever the checks say (rules R62 to R66, R100). -/
def candidateFrame (buf : List Byte) (p : Nat) : Frame where
  ms := be32 (buf.getD (p + 1) 0) (buf.getD (p + 2) 0) (buf.getD (p + 3) 0) (buf.getD (p + 4) 0)
  id := (be32 (buf.getD (p + 6) 0) (buf.getD (p + 7) 0) (buf.getD (p + 8) 0) (buf.getD (p + 9) 0)).setWidth 29
  data := slice buf (p + 10) (buf.getD (p + 5) 0).toNat

/-- The Message of a candidate with zero reserved bits: its identifier is the whole id field (rules R99, R100). -/
theorem frameMessage_candidateFrame {buf : List Byte} {p : Nat} (h : (buf.getD (p + 6) 0).toNat ≤ 0x1F) :
    frameMessage (candidateFrame buf p) =
      { id := be32 (buf.getD (p + 6) 0) (buf.getD (p + 7) 0) (buf.getD (p + 8) 0) (buf.getD (p + 9) 0)
        data := slice buf (p + 10) (buf.getD (p + 5) 0).toNat
        ts := tsDequant (be32 (buf.getD (p + 1) 0) (buf.getD (p + 2) 0) (buf.getD (p + 3) 0) (buf.getD (p + 4) 0))
        ext := true } := by
  rw [frameMessage, candidateFrame, setWidth_id_of_reserved ((reservedIdBits_be32 _ _ _ _).mpr h)]

/-- When a complete candidate is accepted, and as what: the three checks of rule R99 on the bytes they read. -/
theorem candidate_accepted_iff {buf : List Byte} {p : Nat} (hs : buf[p]? = some Config.startByte)
    (hc : p + 11 + (buf.getD (p + 5) 0).toNat ≤ buf.length) {f : Frame} {rest : List Byte} :
    decodeFields (buf.drop p) = .ok (f, rest) ↔
      ((buf.getD (p + 5) 0).toNat ≤ 8 ∧ (buf.getD (p + 6) 0).toNat ≤ 0x1F ∧
        buf.getD (p + 10 + (buf.getD (p + 5) 0).toNat) 0 = Config.endByte) ∧
      f = candidateFrame buf p ∧ rest = buf.drop (p + 10 + (buf.getD (p + 5) 0).toNat + 1) := by
  rw [decodeFields_drop hs (by omega), checkCandidate_ok_iff, reservedIdBits_be32,
    drop_eq_slice_append (n := (buf.getD (p + 5) 0).toNat) (by omega)]
  have hlen : (slice buf (p + 10) (buf.getD (p + 5) 0).toNat).length = (buf.getD (p + 5) 0).toNat := by
    rw [slice, List.length_take, List.length_drop]
    omega
  constructor
  · rintro ⟨hdlc, hid, hbytes, hl, hms, hi⟩
    obtain ⟨hdata, htail⟩ := List.append_inj hbytes (hlen.trans hl.symm)
    obtain ⟨hend, hrest⟩ := List.cons.inj htail
    refine ⟨⟨hdlc, hid, hend⟩, ?_, hrest.symm⟩
    rw [candidateFrame, ← hms, ← hi, hdata]
  · rintro ⟨⟨hdlc, hid, hend⟩, rfl, rfl⟩
    exact ⟨hdlc, hid, by rw [hend]; rfl, hlen, rfl, rfl⟩

/-- Settles O18, arm by arm. -/
theorem decodeOneCandidateArms : Obligations.DecodeOneCandidateArms := by
  intro early buf pos _
  refine ⟨fun h => (Decode1Answer.noStart h).eq, fun p hp => ?_⟩
  have h11 : Config.fixedLen = 11 := rfl
  have hlt := hp.lt
  refine ⟨fun ha => (Decode1Answer.header p hp ha).eq, fun ha hn => ?short, fun hc => ?complete⟩
  case short =>
    split
    case isTrue he => exact decode1_of_rejected hp ⟨by omega, .inl he⟩
    case isFalse he => exact (Decode1Answer.frame p hp ha hn fun h => Nat.not_lt.mp fun h8 => he ⟨h, h8⟩).eq
  case complete =>
    have hwhole : p + 11 + (buf.getD (p + 5) 0).toNat ≤ buf.length := by omega
    split
    case isTrue hv =>
      have hok := (candidate_accepted_iff hp.2.1 hwhole).mpr ⟨hv, rfl, rfl⟩
      refine ⟨candidateFrame buf p, ?_, frameMessage_candidateFrame hv.2.1⟩
      rw [accepted_dlc hok]
      exact (Decode1Answer.accept p hp _ _ hok).eq
    case isFalse hv =>
      exact decode1_of_rejected hp
        ⟨by omega, .inr ⟨by omega, fun f rest hd => hv ((candidate_accepted_iff hp.2.1 hwhole).mp hd).1⟩⟩

/-! ### What DECODE answers (rules R100, R102, R103, R105) -/

/-- Settles O19 by the recursion equation. -/
theorem decodeRepeatsWhileCorrupt : Obligations.DecodeRepeatsWhileCorrupt := by
  intro early buf pos _
  rw [decodeBuffer_eq_afterDecode1]
  rcases decode1 early buf pos with ⟨_ | _ | _, _, _⟩ <;> rfl

/-- Settles O20, arm by arm: the frame arm waits for `dlc` bytes at most, and `dlc` is a byte. -/
theorem needMoreDataLeavesFewLiveBytes : Obligations.NeedMoreDataLeavesFewLiveBytes := by
  intro early buf pos arm buf' pos' h
  have ha := decodeBuffer_answer early buf pos
  rw [h] at ha
  cases ha with
  | noStart => exact ⟨rfl, rfl⟩
  | header q p hq hs hl => exact ⟨rfl, hq.le.trans hs.1, hs.2.1, by omega⟩
  | frame q p hq hs hl hn he =>
    have hdlc := (buf.getD (pos' + 5) 0).isLt
    refine ⟨rfl, hq.le.trans hs.1, hs.2.1, hl, ?_⟩
    split
    case isTrue hearly => have := he hearly; omega
    case isFalse => omega

/-- The bytes at the cursor DECODE leaves are those of the frame it found, and `consumed` is their number (rules R100, R102,
R103). -/
theorem decodeBuffer_frame_at_cursor {early : Bool} {buf : List Byte} {pos : Nat} {f : Frame} {consumed frameEnd : Nat}
    {buf' : List Byte} {p : Nat} (h : decodeBuffer early buf pos = (.frame f consumed frameEnd, buf', p)) :
    buf' = buf ∧ pos ≤ p ∧ f.data.length ≤ 8 ∧ consumed = 11 + f.data.length ∧ frameEnd = p + consumed ∧
      frameEnd ≤ buf.length ∧ slice buf p consumed = encodeFields f := by
  have ha := decodeBuffer_answer early buf pos
  rw [h] at ha
  cases ha with
  | accept q _ hq hs _ rest hd =>
    obtain ⟨hwhole, hlen⟩ := accepted_length hd
    obtain ⟨hbytes, -⟩ := decodedBytesAreTheFrame _ f rest hd
    refine ⟨rfl, hq.le.trans hs.1, hlen, rfl, Nat.add_assoc p 11 _, by omega, ?_⟩
    rw [slice, hbytes, List.take_left' (encodeFields_length f)]

/-- Settles O21. -/
theorem decodedFrameStandsAtTheCursor : Obligations.DecodedFrameStandsAtTheCursor :=
  fun _ _ _ _ _ _ _ _ => decodeBuffer_frame_at_cursor

/-! ### Draining a stream (rules R43, R104) -/

/-- The fuel of `drainLoop` does not matter once there is a delivery for every live byte. -/
theorem drainLoop_fuel (early : Bool) : ∀ (n m : Nat) (live : List Byte), live.length < n → live.length < m →
    drainLoop early n live = drainLoop early m live
  | 0, _, _, hn, _ => absurd hn (Nat.not_lt_zero _)
  | _ + 1, 0, _, _, hm => absurd hm (Nat.not_lt_zero _)
  | n + 1, m + 1, live, hn, hm => by
    rcases hd : decodeBuffer early live 0 with ⟨arm | ⟨f, consumed, frameEnd⟩, buf, p⟩
    · simp only [drainLoop, hd]
    · obtain ⟨rfl, -, -, hcons, hend, hle, -⟩ := decodeBuffer_frame_at_cursor hd
      have hlen : (buf.drop frameEnd).length = buf.length - frameEnd := List.length_drop
      simp only [drainLoop, hd, drainLoop_fuel early n m (buf.drop frameEnd) (by omega) (by omega)]

/-- Draining stops where DECODE needs more bytes. -/
theorem drain_of_needMore {early : Bool} {live : List Byte} {arm : NeedArm} {buf : List Byte} {pos : Nat}
    (h : decodeBuffer early live 0 = (.needMore arm, buf, pos)) : drain early live = ([], buf.drop pos) := by
  simp only [drain, drainLoop, h]

/-- Draining delivers the frame DECODE finds and goes on behind it. -/
theorem drain_of_frame {early : Bool} {live : List Byte} {f : Frame} {consumed frameEnd : Nat} {buf : List Byte} {p : Nat}
    (h : decodeBuffer early live 0 = (.frame f consumed frameEnd, buf, p)) :
    drain early live = (f :: (drain early (live.drop frameEnd)).1, (drain early (live.drop frameEnd)).2) := by
  obtain ⟨rfl, -, -, hcons, hend, hle, -⟩ := decodeBuffer_frame_at_cursor h
  have hlen : (buf.drop frameEnd).length = buf.length - frameEnd := List.length_drop
  simp only [drain, drainLoop, h,
    drainLoop_fuel early buf.length ((buf.drop frameEnd).length + 1) (buf.drop frameEnd) (by omega) (by omega)]

/-- Bytes DECODE passes over may be discarded before draining (rule R32). -/
theorem drain_drop {early : Bool} {live : List Byte} {k : Nat}
    (h : decodeBuffer early live 0 = decodeBuffer early live k) : drain early (live.drop k) = drain early live := by
  rcases hd : decodeBuffer early live k with ⟨arm | ⟨f, consumed, frameEnd⟩, buf, p⟩
  · obtain ⟨buf', p', hd', hlive⟩ := decodeBuffer_drop_needMore (k := k) (pos := 0) hd
    rw [drain_of_needMore hd', drain_of_needMore (h.trans hd), hlive]
  · obtain ⟨rfl, hk, -, -, hend, -, -⟩ := decodeBuffer_frame_at_cursor hd
    have hrest : (buf.drop k).drop (frameEnd - k) = buf.drop frameEnd := by
      rw [List.drop_drop, Nat.add_sub_cancel' (by omega)]
    rw [drain_of_frame (decodeBuffer_drop_frame (k := k) (pos := 0) hd), drain_of_frame (h.trans hd), hrest]

/-- Every START before the first one that is not rejected heads a rejected candidate (rules R96, R101). -/
theorem Rejects.rejectedAt_of_firstStart {early : Bool} {buf : List Byte} {pos q p : Nat} (hq : Rejects early buf pos q)
    (hs : IsFirstStart buf q p) {i : Nat} (hpos : pos ≤ i) (hp : i < p) (hi : buf[i]? = some Config.startByte) :
    RejectedAt early buf i :=
  hq.rejectedAt hpos (Nat.not_le.mp fun hqi => hs.2.2 i hqi hp hi) hi

/-- What a NeedMoreData leaves live is a suffix, and every START before it heads a rejected candidate (rule R104, P1). -/
theorem decodeBuffer_needMore_suffix {early : Bool} {live : List Byte} {arm : NeedArm} {buf : List Byte} {pos : Nat}
    (h : decodeBuffer early live 0 = (.needMore arm, buf, pos)) :
    ∃ k ≤ live.length, buf.drop pos = live.drop k ∧
      ∀ i, i < k → live[i]? = some Config.startByte → RejectedAt early live i := by
  have ha := decodeBuffer_answer early live 0
  rw [h] at ha
  cases ha with
  | noStart q hq hn =>
    refine ⟨live.length, Nat.le_refl _, by rw [List.drop_length, List.drop_nil], fun i _ hi => ?_⟩
    exact hq.rejectedAt (Nat.zero_le i) (Nat.not_le.mp fun hqi => hn i hqi hi) hi
  | header q p hq hs =>
    exact ⟨pos, hs.lt.le, rfl, fun i hip => hq.rejectedAt_of_firstStart hs (Nat.zero_le i) hip⟩
  | frame q p hq hs =>
    exact ⟨pos, hs.lt.le, rfl, fun i hip => hq.rejectedAt_of_firstStart hs (Nat.zero_le i) hip⟩

/-- Draining `a ++ b`, by what DECODE answers on `a`: nothing yet, when what `a` leaves takes its place before `b`; or a
frame, which is found before `b` too. -/
theorem drain_append (early : Bool) (a b : List Byte) :
    drain early (a ++ b) =
      ((drain early a).1 ++ (drain early ((drain early a).2 ++ b)).1, (drain early ((drain early a).2 ++ b)).2) := by
  rcases hd : decodeBuffer early a 0 with ⟨arm | ⟨f, consumed, frameEnd⟩, buf, p⟩
  · obtain ⟨k, hk, hlive, hrej⟩ := decodeBuffer_needMore_suffix hd
    have hskip : decodeBuffer early (a ++ b) 0 = decodeBuffer early (a ++ b) k := by
      refine decodeBuffer_of_starts_rejected (Nat.zero_le k) fun i _ hik hi => (hrej i hik ?_).append b
      rwa [List.getElem?_append_left (by omega)] at hi
    rw [drain_of_needMore hd, hlive, ← List.drop_append_of_le_length hk, drain_drop hskip]
    rfl
  · obtain ⟨-, -, -, hcons, hend, hle, -⟩ := decodeBuffer_frame_at_cursor hd
    rw [drain_of_frame hd, drain_of_frame (decodeBuffer_append_frame hd b), List.drop_append_of_le_length hle,
      drain_append early (a.drop frameEnd) b]
    rfl
termination_by a.length
decreasing_by rw [List.length_drop]; omega

/-- Settles O24. -/
theorem deliveryIsChunkIndependent : Obligations.DeliveryIsChunkIndependent := drain_append

/-! ### DECODE in the RX engine's turn (rules R100 to R103, R121, R139) -/

/-- A turn of the RX engine whose DECODE finds a frame is `exec` of that frame's instruction (rules R100, R121). -/
theorem rxTurn_runs_frame {s : State} {f : Frame} {consumed frameEnd : Nat} {buf : List Byte} {p : Nat}
    (hb : s.rxBusy = true)
    (hd : decodeBuffer s.build.earlyDlcReject s.rxbuf s.sp = (.frame f consumed frameEnd, buf, p)) :
    (rxTurn s).result = exec f.instr { s with rxbuf := buf, sp := p, fsm := .frameComplete } := by
  obtain ⟨-, -, hlen, -⟩ := decodeBuffer_frame_at_cursor hd
  rw [rxTurn_of_frame hb hd, exec_frame f _ hlen]

/-- Settles O28: the second clause is the first with the frame found at `sp` itself. -/
theorem stepRunsTheFrameAtTheCursor : Obligations.StepRunsTheFrameAtTheCursor := by
  intro s f rest hc hi hb
  refine ⟨fun consumed frameEnd buf p hd => ?found, fun after hf => ?here⟩
  case found =>
    obtain ⟨rfl, hp, hlen, -, -, -, hbytes⟩ := decodeBuffer_frame_at_cursor hd
    refine ⟨f.instr_wellFormed hlen, rfl, hp, ?_, ?_⟩
    · rw [hbytes, decode_encodeFields hlen]
    · exact (step_of_rxTurn hc hi).trans (rxTurn_runs_frame (s := { s with inputs := rest }) hb hd)
  case here =>
    exact ⟨f.instr_wellFormed (accepted_length hf).2,
      (step_of_rxTurn hc hi).trans (rxTurn_runs_frame (s := { s with inputs := rest }) hb (decodeBuffer_here hf))⟩

/-- A turn of the RX engine depends on the cursor through what DECODE answers there (rules R118, R120). -/
theorem rxTurn_of_decodeBuffer_eq {s : State} {q : Nat} (hb : s.rxBusy = true)
    (h : decodeBuffer s.build.earlyDlcReject s.rxbuf s.sp = decodeBuffer s.build.earlyDlcReject s.rxbuf q) :
    (rxTurn s).result = (rxTurn { s with sp := q }).result := by
  rcases hd : decodeBuffer s.build.earlyDlcReject s.rxbuf q with ⟨arm | ⟨f, consumed, frameEnd⟩, buf, p⟩
  · rw [rxTurn_of_needMore hb (h.trans hd), rxTurn_of_needMore (s := { s with sp := q }) hb hd]
  · rw [rxTurn_of_frame hb (h.trans hd), rxTurn_of_frame (s := { s with sp := q }) hb hd]

/-- Settles O39: DECODE answers the same from one byte past the rejected START. -/
theorem rejectionIsSilent : Obligations.RejectionIsSilent := by
  intro s rest buf pos hc hi hb h
  have ha := decode1_answer s.build.earlyDlcReject s.rxbuf s.sp
  rw [h] at ha
  cases ha with
  | reject p hs hr =>
    refine ⟨rfl, ⟨p, hs, rfl⟩, ?_⟩
    calc step s
        = (rxTurn { s with inputs := rest }).result := step_of_rxTurn hc hi
      _ = (rxTurn { s with inputs := rest, sp := p + 1 }).result :=
          rxTurn_of_decodeBuffer_eq hb (decodeBuffer_of_rejected hs hr)
      _ = step { s with sp := p + 1 } := (step_of_rxTurn (s := { s with sp := p + 1 }) hc hi).symm

/-! ### The DECODE command (rules R27, R102) -/

/-- MSG_OUT after a frame holds its payload in its first lanes (rule R27). -/
theorem ofFrame_data (fill : Nat → Byte) (f : Frame) {k : Nat} (h : k < 8) (hk : k < f.data.length) :
    (MsgOut.ofFrame fill f).data[k] = f.data[k] :=
  lanes_getElem 8 fill f.data h hk

/-- Settles O17: one equation per outcome of DECODE; a frame's payload is short enough for its length register. -/
theorem decodeCommandReportsTheFrame : Obligations.DecodeCommandReportsTheFrame := by
  refine fun s => ⟨fun arm buf pos hd => ?needMore, fun f consumed frameEnd buf pos hd => ?frame⟩
  case needMore =>
    simp only [exec, execDecode, hd]
    rfl
  case frame =>
    obtain ⟨-, -, hlen, -⟩ := decodeBuffer_frame_at_cursor hd
    refine ⟨.ofFrame (Config.freeByte s.free) f, s.free + 1, ?step, rfl, ?len, rfl, rfl, rfl,
      fun k h hk => ofFrame_data _ f h hk⟩
    case step =>
      simp only [exec, execDecode, hd]
      rfl
    case len =>
      change (BitVec.ofNat 8 f.data.length).toNat = _
      rw [BitVec.toNat_ofNat]
      omega

end Sys2Proof.Machine
end

section
/-! PROOFS. The statements of 43_send.md about SEND up to its write loop (rules R110, R113, R140, R142, R143). -/

namespace Sys2Proof.Machine

/-- Settles O30: the acceptance of a SEND, on the frame that ENCODE answers for a valid operand register. -/
theorem sendLatchesTheFrame : Obligations.SendLatchesTheFrame := fun _ hb hbr hid hlen hts =>
  exec_send_starts hb hbr (encodeMessage_eq_frameBytes hid hlen hts)

/-- A SEND while another is in flight (rules R140, R142). -/
theorem exec_send_of_busy {s : State} (hb : s.txBusy = true) : exec .send s = .next { s with txStatus := 7 } := if_pos hb

/-- A SEND on a broken channel, the engine free (rules R113, R142). -/
theorem exec_send_of_broken {s : State} (hb : s.txBusy = false) (hbr : s.broken = true) :
    exec .send s = .next { s with txStatus := 6, txErrTag := 0 } :=
  (if_neg (Bool.eq_false_iff.mp hb)).trans (if_pos hbr)

/-- A SEND of an operand that violates an invariant, the engine free and the channel not broken (rules R110, R143). -/
theorem exec_send_of_violation {s : State} {v : RangeTag} (hb : s.txBusy = false) (hbr : s.broken = false)
    (h : violation s.operand = some v) : exec .send s = .next { s with txStatus := 5, txErrTag := v.code } := by
  have he : encodeMessage s.operand = .error v := by simp only [encodeMessage, h]
  rw [exec, execSend, if_neg (Bool.eq_false_iff.mp hb), if_neg (Bool.eq_false_iff.mp hbr), he]
  rfl

/-- Settles O31: busy hides broken, broken hides the operand, and the operand's tag is that of `Violation`. -/
theorem sendTestsBusyThenBrokenThenRange : Obligations.SendTestsBusyThenBrokenThenRange := fun s =>
  ⟨exec_send_of_busy, exec_send_of_broken,
    fun hb hbr hid => exec_send_of_violation hb hbr (violation_of_id hid),
    fun hb hbr hid hlen =>
      exec_send_of_violation hb hbr (violation_of_length hid (hlen.trans_eq (operand_length s).symm)),
    fun hb hbr hid hlen hts =>
      exec_send_of_violation hb hbr (violation_of_timestamp hid ((operand_length s).trans_le hlen) hts)⟩

end Sys2Proof.Machine
end

section
/-! PROOFS. The statements of 44_recv.md: RECV up to its loop (rules R118, R126, R142); the turn that reads and the turn that
times out (rules R119, R120, R122, R123, R125); a frame that arrives in two pieces (rule R129); when a RECV that is not
Infinite ends (rules R127, R128). -/

namespace Sys2Proof.Machine

/-! ### RECV up to its loop (rules R118, R126, R142) -/

/-- A RECV while another is in flight, on a broken channel or not (rules R126, R140, R142). -/
theorem exec_recv_of_busy {s : State} (hb : s.rxBusy = true) : exec .recv s = .next { s with rxStatus := 7 } := if_pos hb

/-- A RECV on a broken channel, the engine free (rules R25, R142). -/
theorem exec_recv_of_broken {s : State} (hb : s.rxBusy = false) (hbr : s.broken = true) :
    exec .recv s = .next { s with rxStatus := 6 } :=
  (if_neg (Bool.eq_false_iff.mp hb)).trans (if_pos hbr)

/-- Settles O35: busy hides broken, and neither of them starts the engine. -/
theorem recvStartsTheEngine : Obligations.RecvStartsTheEngine :=
  fun _ => ⟨exec_recv_starts, exec_recv_of_busy, exec_recv_of_broken⟩

/-! ### The turn that finds no frame (rules R119, R120, R122, R123, R125) -/

/-- A scripted answer of an external `ChRead` within the contract: the next `k` bytes of the RX stream, removed from it (rules
R46, R119). -/
theorem chRead_scripted {ch : Channel} {max k : Nat} {e : Bool} {rs : List ReadAnswer} (hk : ch.kind = .external)
    (hr : ch.readable = true) (hs : ch.reads = .bytes k e :: rs) (hmax : k ≤ max) (hlen : k ≤ ch.rxStream.length)
    (d : Timeout) :
    chRead ch max d = .bytes (ch.rxStream.take k) (d.expiry e) { ch with reads := rs, rxStream := ch.rxStream.drop k } :=
  chRead_external_bytes hk hr hs (by omega)

/-- A `ChRead` that is not Infinite, behind the end of the script: up to `max` bytes of what the channel holds, and the
deadline reached (rules R119, R127; assumption log 3). -/
theorem chRead_unscripted_bytes {ch : Channel} {d : Timeout} (hk : ch.kind = .external) (hr : ch.readable = true)
    (hs : ch.reads = []) (hd : d ≠ .infinite) (max : Nat) :
    chRead ch max d = .bytes (ch.rxStream.take max) true { ch with rxStream := ch.rxStream.drop max } := by
  rw [chRead_unscripted hk hr hs, unscripted_eq, if_neg hd, min_comm, ← List.take_eq_take_min, ← List.drop_eq_drop_min]

/-- After NeedMoreData with the deadline seen, the RECV ends with TimedOut (rule R123). -/
theorem rxNeedMore_of_expired {s : State} (he : s.expired = true) :
    rxNeedMore s = .next { s with rxBusy := false, rxStatus := 3 } := if_pos he

/-- Settles O36: the answer of the one `ChRead`, scripted or not, joins the buffer DECODE left. -/
theorem readTurnAppendsTheAnswer : Obligations.ReadTurnAppendsTheAnswer := by
  intro s rest arm buf pos hc hi hb he hd hk hr
  rw [← needArm_fsm_eq]
  have hturn := step_of_needMore hc hi hb hd
  exact ⟨fun k e rs hs hmax hlen => hturn.trans (rxNeedMore_of_bytes he (chRead_scripted hk hr hs hmax hlen _)),
    fun hs ht => hturn.trans (rxNeedMore_of_bytes he (chRead_unscripted_bytes hk hr hs ht _))⟩

/-- Settles O37. -/
theorem expiredTurnTimesOut : Obligations.ExpiredTurnTimesOut := by
  intro s rest arm buf pos hc hi hb he hd
  rw [← needArm_fsm_eq]
  exact (step_of_needMore hc hi hb hd).trans (rxNeedMore_of_expired he)

/-! ### A frame that arrives in two pieces (rule R129) -/

/-- DECODE on a frame cut short waits at its START: for the header, or for the rest of the frame (rules R97, R98). -/
theorem decodeBuffer_take_encodeFields (early : Bool) {f : Frame} {k : Nat} (hf : f.data.length ≤ 8) (hpos : 0 < k)
    (hk : k < 11 + f.data.length) :
    decodeBuffer early ((encodeFields f).take k) 0 =
      (.needMore (if k < 11 then .header else .frame), (encodeFields f).take k, 0) := by
  have hlen : ((encodeFields f).take k).length = k := by
    rw [List.length_take, encodeFields_length]
    omega
  have hstart : IsFirstStart ((encodeFields f).take k) 0 0 :=
    ⟨Nat.le_refl 0, by rw [List.getElem?_take_of_lt hpos]; rfl, fun i _ hi => absurd hi (Nat.not_lt_zero i)⟩
  split
  case isTrue => exact (DecodeAnswer.header 0 0 (.here 0) hstart (by omega)).eq
  case isFalse =>
    have hdlc : (((encodeFields f).take k).getD (0 + 5) 0).toNat = f.data.length := by
      rw [← getD_append_left ((encodeFields f).drop k) (by omega), List.take_append_drop]
      exact accepted_dlc (rest := []) (by simpa using decodeFields_encodeFields_append f [] hf)
    exact (DecodeAnswer.frame 0 0 (.here 0) hstart (by omega) (by omega) (fun _ => by omega)).eq

/-- The block with an idle schedule and no operation in flight, its external channel sound, at the instant a RECV has been
issued. -/
structure RecvIssued (s : State) : Prop where
  issued : s.cmdIssued = true
  cmd : s.cmd = 6
  idle : s.inputs = []
  sound : s.broken = false
  rxFree : s.rxBusy = false
  txFree : s.txBusy = false
  external : s.chan.kind = .external
  opened : s.chan.isOpen = true
  writeUp : s.chan.writeFailed = false
  readUp : s.chan.readFailed = false

/-- The state of an accepted RECV on a sound channel (rule R118). -/
def State.receiving (s : State) : State :=
  { s with cmdIssued := false, rxBusy := true, expired := false, rxTimeout := s.timeout }

/-- The state after that RECV has read: `k` bytes behind the buffer `buf` that DECODE left, the deadline bit, and the answers `rs`
left (rule R122). -/
def State.received (arm : NeedArm) (buf : List Byte) (pos k : Nat) (e : Bool) (rs : List ReadAnswer) (s : State) : State :=
  { s.receiving with rxbuf := buf ++ s.chan.rxStream.take k, sp := pos, fsm := arm.fsm, expired := s.timeout.expiry e, chan := { s.chan with reads := rs, rxStream := s.chan.rxStream.drop k } }

/-- Left to itself, with no SEND in flight, the block takes the RX engine's turn (assumption log 19). -/
theorem step_of_free_rx {s : State} (hc : s.cmdIssued = false) (hi : s.inputs = []) (ht : s.txBusy = false) :
    step s = (rxTurn s).result := by
  rw [step_of_free hc hi, if_neg (by simp [txReady, ht])]

/-- Left to itself, a RECV that finds no frame does what follows NeedMoreData (rules R118, R120). -/
theorem step_of_free_needMore {s : State} {arm : NeedArm} {buf : List Byte} {pos : Nat} (hc : s.cmdIssued = false)
    (hi : s.inputs = []) (ht : s.txBusy = false) (hb : s.rxBusy = true)
    (hd : decodeBuffer s.build.earlyDlcReject s.rxbuf s.sp = (.needMore arm, buf, pos)) :
    step s = rxNeedMore (s.needingMore arm buf pos) :=
  (step_of_free_rx hc hi ht).trans (rxTurn_of_needMore hb hd)

section recvIssued
variable {s : State} {arm : NeedArm} {buf : List Byte} {pos k : Nat} {e : Bool} {rs : List ReadAnswer}
variable (h : RecvIssued s) (hd : decodeBuffer s.build.earlyDlcReject s.rxbuf s.sp = (.needMore arm, buf, pos))
  (hs : s.chan.reads = .bytes k e :: rs) (hmax : k ≤ s.build.maxRead.val) (hlen : k ≤ s.chan.rxStream.length)
include h hd hs hmax hlen

/-- The RECV is accepted, and its first turn reads (rules R118, R120, R122). -/
theorem RecvIssued.steps_eq (n : Nat) :
    steps (n + 2) s = steps n (s.received arm buf pos k e rs) := by
  have hreadable : s.chan.readable = true := by simp [Channel.readable, h.opened, h.readUp]
  have haccept : step s = .next s.receiving := by
    rw [step_of_recv h.issued h.cmd h.rxFree h.sound, (begin_eq h.writeUp h.readUp).2]
    rfl
  have hread := (step_of_free_needMore (s := s.receiving) rfl h.idle h.txFree rfl hd).trans
    (rxNeedMore_of_bytes (s := s.receiving.needingMore arm buf pos) rfl
      (chRead_scripted h.external hreadable hs hmax hlen _))
  calc steps (n + 2) s = steps (n + 1) s.receiving := steps_succ haccept
    _ = steps n (s.received arm buf pos k e rs) := steps_succ hread

/-- A RECV whose one read reaches the deadline and completes no frame times out on its next turn (rule R123). -/
theorem RecvIssued.steps_timedOut {arm' : NeedArm} {buf' : List Byte} {pos' : Nat}
    (hd' : decodeBuffer s.build.earlyDlcReject (buf ++ s.chan.rxStream.take k) pos = (.needMore arm', buf', pos'))
    (he : s.timeout.expiry e = true) :
    steps 3 s = .next { s with cmdIssued := false, rxbuf := buf', sp := pos', fsm := arm'.fsm, expired := s.timeout.expiry e, rxBusy := false, rxTimeout := s.timeout, rxStatus := 3, chan := { s.chan with reads := rs, rxStream := s.chan.rxStream.drop k } } := by
  have hend := (step_of_free_needMore (s := s.received arm buf pos k e rs) rfl h.idle h.txFree rfl hd').trans
    (rxNeedMore_of_expired (s := (s.received arm buf pos k e rs).needingMore arm' buf' pos') he)
  calc steps 3 s = steps 1 (s.received arm buf pos k e rs) := h.steps_eq hd hs hmax hlen 1
    _ = steps 0 _ := steps_succ hend

/-- A RECV whose one read completes a frame delivers it on its next turn (rule R121). -/
theorem RecvIssued.steps_delivered {f : Frame} {consumed frameEnd : Nat} {buf' : List Byte} {pos' : Nat}
    (hd' : decodeBuffer s.build.earlyDlcReject (buf ++ s.chan.rxStream.take k) pos = (.frame f consumed frameEnd, buf', pos')) :
    DeliversFrame f { s with cmdIssued := false, rxbuf := buf', sp := pos', fsm := .frameComplete, expired := s.timeout.expiry e, rxBusy := true, rxTimeout := s.timeout, chan := { s.chan with reads := rs, rxStream := s.chan.rxStream.drop k } } (steps 3 s) := by
  obtain ⟨-, -, hf, -⟩ := decodeBuffer_frame_at_cursor hd'
  have hend := (step_of_free_rx (s := s.received arm buf pos k e rs) rfl h.idle h.txFree).trans (rxTurn_of_frame rfl hd')
  have hsteps := (h.steps_eq hd hs hmax hlen 1).trans (steps_succ hend)
  rw [hsteps]
  exact deliversFrame_deliver f _ hf

end recvIssued

/-- Settles O40: the first piece is read into an empty buffer, and the turn behind it sees the deadline; the rest is read
behind the first piece, and the turn behind it finds the frame. -/
theorem frameInTwoPiecesIsDelivered : Obligations.FrameInTwoPiecesIsDelivered := by
  intro s f k after e rs hf hpos hk hc hcmd hi hbr hb htx hkind hopen hwf hrf hmax
  have hissued : RecvIssued s := ⟨hc, hcmd, hi, hbr, hb, htx, hkind, hopen, hwf, hrf⟩
  have hsize := encodeFields_length f
  have hcut := decodeBuffer_take_encodeFields s.build.earlyDlcReject hf hpos hk
  refine ⟨fun hexp hbuf hsp hstream hs => ?first, fun hbuf hsp hstream hs => ?second⟩
  case first =>
    have hfsm : (if k < 11 then NeedArm.header else .frame).fsm = if k < 11 then .syncing else .headerBuffered := by
      split <;> rfl
    have hpiece : s.chan.rxStream.take k = (encodeFields f).take k := by
      rw [hstream, List.take_append_of_le_length (by omega)]
    have hrest : s.chan.rxStream.drop k = (encodeFields f).drop k ++ after := by
      rw [hstream, List.drop_append_of_le_length (by omega)]
    rw [hissued.steps_timedOut (by rw [hbuf, hsp]; exact decodeBuffer_nil _) hs (by omega)
      (by rw [hstream, List.length_append]; omega) (by rw [hpiece]; exact hcut) hexp, hexp, hfsm, hrest]
    simp only [hsp, hb]
  case second =>
    have hleft : ((encodeFields f).drop k).length = 11 + f.data.length - k := by rw [List.length_drop, hsize]
    have hwhole : (encodeFields f).take k ++ s.chan.rxStream.take (11 + f.data.length - k) = encodeFields f := by
      rw [hstream, List.take_left' hleft, List.take_append_drop]
    have hrest : s.chan.rxStream.drop (11 + f.data.length - k) = after := by rw [hstream, List.drop_left' hleft]
    obtain ⟨out, n, hsteps, hid, hlen, hdata, hts, hms, hext⟩ := hissued.steps_delivered (by rw [hbuf, hsp]; exact hcut) hs
      (by omega) (by rw [hstream, List.length_append]; omega) (by rw [hwhole]; exact decodeBuffer_encodeFields _ hf)
    refine ⟨out, s.timeout.expiry e, n, ?_, hid, hlen, hdata, hms, hts, hext⟩
    have hempty : (encodeFields f).drop (0 + 11 + f.data.length) = [] := List.drop_of_length_le (by omega)
    rw [hsteps, hrest, hempty]
    simp only [hsp, hb]

/-! ### When a RECV that is not Infinite ends (rules R119, R123, R127, R128) -/

/-- What a `ChRead` that answers bytes does with the script: it uses one answer up, and without an answer the deadline ends what
is not Infinite (rules R119, R127; assumption logs 3, 18). -/
theorem chRead_bytes_script {ch : Channel} {max : Nat} {d : Timeout} {bs : List Byte} {e : Bool} {ch' : Channel}
    (h : chRead ch max d = .bytes bs e ch') :
    ch'.reads = ch.reads.tail ∧ (d ≠ .infinite → ch.reads = [] → e = true) := by
  have expiry (hd : d ≠ .infinite) : d.expiry true = true := by
    cases d with
    | zero | finite => rfl
    | infinite => exact absurd rfl hd
  unfold chRead Channel.handOver at h
  split at h
  · cases h
  · split at h
    case h_1 hs =>
      rw [unscripted_eq] at h
      split at h <;> cases h
      exact ⟨by simp [hs], fun _ _ => rfl⟩
    case h_2 => cases h
    case h_3 hs =>
      split at h <;> cases h
      exact ⟨by simp [hs], fun _ hn => by simp [hs] at hn⟩
    case h_4 =>
      cases h
      exact ⟨rfl, fun hd hn => by rw [hn]; exact expiry hd⟩

/-- `ch'` is `ch` after `j` answers of its script for `ChRead`, each of at most `max` bytes. -/
def Channel.After (j max : Nat) (ch ch' : Channel) : Prop :=
  ch'.reads = ch.reads.drop j ∧ ∃ k ≤ j * max, ch'.rxStream = ch.rxStream.drop k

theorem Channel.After.refl (max : Nat) (ch : Channel) : ch.After 0 max ch := ⟨rfl, 0, Nat.zero_le _, rfl⟩

theorem Channel.After.trans {i j max : Nat} {ch ch' ch'' : Channel} (h : ch.After i max ch') (h' : ch'.After j max ch'') :
    ch.After (i + j) max ch'' := by
  obtain ⟨hr, k, hk, hx⟩ := h
  obtain ⟨hr', k', hk', hx'⟩ := h'
  refine ⟨by rw [hr', hr, List.drop_drop], k + k', ?_, by rw [hx', hx, List.drop_drop]⟩
  rw [Nat.add_mul]
  exact Nat.add_le_add hk hk'

/-- A failed `ChRead` uses at most one answer up. -/
theorem Channel.After.of_failed {ch ch' : Channel} {max : Nat} {d : Timeout} (h : chRead ch max d = .failed ch') :
    ∃ j ≤ 1, ch.After j max ch' := by
  rcases chRead_failed h with ⟨-, rfl⟩ | ⟨-, rs, hs, rfl⟩
  · exact ⟨0, Nat.zero_le 1, .refl max _⟩
  · exact ⟨1, Nat.le_refl 1, by simp [hs], 0, Nat.zero_le _, rfl⟩

/-- A `ChRead` that answers bytes uses one answer up and hands over at most `max` bytes (rule R46). -/
theorem Channel.After.of_bytes {ch ch' : Channel} {max : Nat} {d : Timeout} {bs : List Byte} {e : Bool}
    (h : chRead ch max d = .bytes bs e ch') : ch.After 1 max ch' := by
  obtain ⟨k, rs, hk, -, -, rfl, -, -⟩ := chRead_bytes h
  exact ⟨(chRead_bytes_script h).1.trans List.drop_one.symm, k, by rwa [Nat.one_mul], rfl⟩

/-- How many turns a RECV that is not Infinite has left at most: one behind the deadline; before it, two for a Zero one, and two
more than its script has answers for a Finite one (rules R127, R128). -/
def State.turnsLeft (s : State) : Nat :=
  if s.rxBusy = false then 0
  else if s.expired = true then 1
  else if s.rxTimeout = .zero then 2
  else s.chan.reads.length + 2

section turnsLeft
variable {s : State}

/-- The RECV is over when no turn is left. -/
theorem turnsLeft_eq_zero_iff : s.turnsLeft = 0 ↔ s.rxBusy = false := by
  unfold State.turnsLeft
  (repeat' split) <;> simp_all

/-- Before the deadline a RECV has a turn to read and one to end. -/
theorem two_le_turnsLeft (hb : s.rxBusy = true) (he : s.expired = false) : 2 ≤ s.turnsLeft := by
  rw [State.turnsLeft, if_neg (by simp [hb]), if_neg (by simp [he])]
  split <;> omega

theorem turnsLeft_le_of_zero (hd : s.rxTimeout = .zero) : s.turnsLeft ≤ 2 := by
  rw [State.turnsLeft, if_pos hd]
  (repeat' split) <;> omega

theorem turnsLeft_le : s.turnsLeft ≤ s.chan.reads.length + 2 := by
  unfold State.turnsLeft
  (repeat' split) <;> omega

/-- A read that answers bytes takes a turn: it reaches the deadline, which is certain for a Zero RECV and behind the end of the
script, or it shortens the script (rule R119). -/
theorem turnsLeft_lt_of_bytes {bs : List Byte} {e : Bool} {ch : Channel} {t : State} (hb : s.rxBusy = true)
    (he : s.expired = false) (hd : s.rxTimeout ≠ .infinite)
    (hr : chRead s.chan s.build.maxRead.val s.rxTimeout = .bytes bs e ch) (hchan : t.chan = ch) (hexp : t.expired = e)
    (hbusy : t.rxBusy = true) (htimeout : t.rxTimeout = s.rxTimeout) : t.turnsLeft < s.turnsLeft := by
  cases e with
  | true =>
    have hone : t.turnsLeft = 1 := by simp [State.turnsLeft, hbusy, hexp]
    exact hone ▸ two_le_turnsLeft hb he
  | false =>
    obtain ⟨-, -, -, -, -, -, hzero, -⟩ := chRead_bytes hr
    obtain ⟨hreads, hscript⟩ := chRead_bytes_script hr
    have hz : s.rxTimeout ≠ .zero := fun h => Bool.false_ne_true (hzero h)
    have hne : s.chan.reads ≠ [] := fun h => Bool.false_ne_true (hscript hd h)
    have hpos := List.length_pos_iff.mpr hne
    simp only [State.turnsLeft, hb, he, hbusy, hexp, htimeout, hz, hchan, hreads, List.length_tail, Bool.true_eq_false,
      Bool.false_eq_true, if_false]
    omega

end turnsLeft

/-- `t` is `s` after RX turns that ended the RECV or brought its end nearer, with one answer of the script at most for each turn
but the last. -/
structure RecvNearer (s t : State) : Prop where
  notIssued : t.cmdIssued = s.cmdIssued
  timeout : t.rxTimeout = s.rxTimeout
  build : t.build = s.build
  fewer : t.turnsLeft ≤ s.turnsLeft - 1
  reads : ∃ j, j + (t.turnsLeft - 1) ≤ s.turnsLeft - 1 ∧ s.chan.After j s.build.maxRead.val t.chan

/-- The end of the RECV is as near as can be. -/
theorem RecvNearer.of_ended {s t : State} {j : Nat} (hb : t.rxBusy = false) (hc : t.cmdIssued = s.cmdIssued)
    (hd : t.rxTimeout = s.rxTimeout) (hbuild : t.build = s.build) (hj : j ≤ s.turnsLeft - 1)
    (hch : s.chan.After j s.build.maxRead.val t.chan) : RecvNearer s t := by
  have hzero := turnsLeft_eq_zero_iff.mpr hb
  exact ⟨hc, hd, hbuild, by omega, j, by omega, hch⟩

/-- A read that answers bytes brings the end of the RECV nearer by a turn. -/
theorem RecvNearer.of_read {s t : State} (htwo : 2 ≤ s.turnsLeft) (hlt : t.turnsLeft < s.turnsLeft)
    (hc : t.cmdIssued = s.cmdIssued) (hd : t.rxTimeout = s.rxTimeout) (hbuild : t.build = s.build)
    (hch : s.chan.After 1 s.build.maxRead.val t.chan) : RecvNearer s t :=
  ⟨hc, hd, hbuild, by omega, 1, by omega, hch⟩

/-- How near the end is does not depend on the buffer and the schedule. -/
theorem RecvNearer.of_buffer {s t : State} {buf : List Byte} {pos : Nat} {x : Fsm} {l : List Input}
    (h : RecvNearer { s with rxbuf := buf, sp := pos, fsm := x, inputs := l } t) : RecvNearer s t :=
  ⟨h.notIssued, h.timeout, h.build, h.fewer, h.reads⟩

theorem RecvNearer.trans {s t u : State} (h : RecvNearer s t) (h' : RecvNearer t u) : RecvNearer s u := by
  obtain ⟨hc, hd, hbuild, hfewer, i, hi, hch⟩ := h
  obtain ⟨hc', hd', hbuild', hfewer', j, hj, hch'⟩ := h'
  rw [hbuild] at hch'
  exact ⟨hc'.trans hc, hd'.trans hd, hbuild'.trans hbuild, by omega, i + j, by omega, hch.trans hch'⟩

/-- What a turn of the RX engine answers while the RECV in flight is not Infinite. -/
inductive BoundedTurn (s : State) : Result → Prop
  | breach : BoundedTurn s (.fault .channelBreach)
  | next (t : State) (hi : t.inputs = s.inputs) (h : RecvNearer s t) : BoundedTurn s (.next t)

theorem BoundedTurn.of_buffer {s : State} {r : Result} {buf : List Byte} {pos : Nat} {x : Fsm}
    (h : BoundedTurn { s with rxbuf := buf, sp := pos, fsm := x } r) : BoundedTurn s r := by
  cases h with
  | breach => exact .breach
  | next t hi h => exact .next t hi h.of_buffer

/-- After NeedMoreData, by the deadline and by what the one `ChRead` answers (rules R120 to R124). -/
theorem rxNeedMore_bounded {s : State} (hb : s.rxBusy = true) (hd : s.rxTimeout ≠ .infinite) :
    BoundedTurn s (rxNeedMore s) := by
  cases he : s.expired with
  | true =>
    rw [rxNeedMore_of_expired he]
    exact .next _ rfl (.of_ended rfl rfl rfl rfl (Nat.zero_le _) (.refl _ _))
  | false =>
    have htwo := two_le_turnsLeft hb he
    cases hr : chRead s.chan s.build.maxRead.val s.rxTimeout with
    | waiting => exact absurd (chRead_waiting_iff.mp hr).1 hd
    | breach =>
      rw [rxNeedMore_of_breach he hr]
      exact .breach
    | failed ch =>
      obtain ⟨j, hj, hch⟩ := Channel.After.of_failed hr
      rw [rxNeedMore_of_failed he hr]
      exact .next _ rfl (.of_ended rfl rfl rfl rfl (by omega) hch)
    | bytes bs e ch =>
      rw [rxNeedMore_of_bytes he hr]
      exact .next _ rfl (.of_read htwo (turnsLeft_lt_of_bytes hb he hd hr rfl rfl hb rfl) rfl rfl rfl (.of_bytes hr))

/-- A turn of the RX engine: idle, one NeedMoreData, or delivery (rules R118, R120, R121). -/
theorem rxTurn_bounded {s : State} (hd : s.rxTimeout ≠ .infinite) : BoundedTurn s (rxTurn s).result := by
  cases hb : s.rxBusy with
  | false =>
    rw [rxTurn_of_idle hb]
    exact .next _ rfl (.of_ended hb rfl rfl rfl (Nat.zero_le _) (.refl _ _))
  | true =>
    rcases hdec : decodeBuffer s.build.earlyDlcReject s.rxbuf s.sp with ⟨arm | ⟨f, consumed, frameEnd⟩, buf, pos⟩
    · rw [rxTurn_of_needMore hb hdec]
      exact (rxNeedMore_bounded (s := s.needingMore arm buf pos) hb hd).of_buffer
    · rw [rxTurn_of_frame hb hdec]
      exact .next _ rfl (.of_ended rfl rfl rfl rfl (Nat.zero_le _) (.refl _ _))

/-- As many turns as a RECV that is not Infinite has left end it, unless its script leaves the channel contract. -/
theorem steps_rxTurns {n : Nat} {rest : List Input} : ∀ {s : State}, s.cmdIssued = false → s.rxTimeout ≠ .infinite →
    s.turnsLeft ≤ n → s.inputs = List.replicate n .rxTurn ++ rest → steps n s ≠ .fault .channelBreach →
    ∃ t, steps n s = .next t ∧ t.rxBusy = false ∧ t.inputs = rest ∧ RecvNearer s t := by
  induction n with
  | zero =>
    intro s _ _ hn hi _
    have hb := turnsLeft_eq_zero_iff.mp (Nat.le_zero.mp hn)
    exact ⟨s, rfl, hb, hi, .of_ended hb rfl rfl rfl (Nat.zero_le _) (.refl _ _)⟩
  | succ n ih =>
    intro s hc hd hn hi hne
    have hturn := rxTurn_bounded (s := { s with inputs := List.replicate n .rxTurn ++ rest }) hd
    have hstep : step s = _ := step_of_rxTurn hc hi
    generalize (rxTurn { s with inputs := List.replicate n .rxTurn ++ rest }).result = r at hturn hstep
    cases hturn with
    | breach => exact absurd (by rw [steps, hstep]) hne
    | next t hit hturn =>
      have h : RecvNearer s t := hturn.of_buffer
      have hfewer := h.fewer
      rw [steps_succ hstep] at hne ⊢
      obtain ⟨u, hu, hb, hiu, h'⟩ := ih (h.notIssued.trans hc) (h.timeout ▸ hd) (by omega) hit hne
      exact ⟨u, hu, hb, hiu, h.trans h'⟩

/-- Settles O59: a Zero RECV has two turns left at most, and a Finite one two more than its script has answers. -/
theorem boundedReceiveEnds : Obligations.BoundedReceiveEnds := by
  intro s rest hc _
  refine ⟨fun hd hne => ?zero, fun hd hne => ?finite⟩
  case zero =>
    have hleft : State.turnsLeft { s with inputs := .rxTurn :: .rxTurn :: rest } ≤ 2 := turnsLeft_le_of_zero hd
    obtain ⟨t, ht, hb, hi, h⟩ := steps_rxTurns (n := 2) (rest := rest)
      (s := { s with inputs := .rxTurn :: .rxTurn :: rest }) hc (by simp [hd]) hleft rfl hne
    obtain ⟨j, hj, hreads, k, hk, hstream⟩ := h.reads
    have hj1 : j ≤ 1 := by omega
    refine ⟨t, ht, hb, hi, ?script, k, hk.trans ((Nat.mul_le_mul_right _ hj1).trans_eq (Nat.one_mul _)), hstream⟩
    case script =>
      rcases Nat.le_one_iff_eq_zero_or_eq_one.mp hj1 with rfl | rfl
      · exact .inl hreads
      · exact .inr (hreads.trans List.drop_one)
  case finite =>
    obtain ⟨t, ht, hb, hi, -⟩ := steps_rxTurns
      (s := { s with inputs := List.replicate (s.chan.reads.length + 2) .rxTurn ++ rest }) hc hd turnsLeft_le rfl hne
    exact ⟨t, ht, hb, hi⟩

end Sys2Proof.Machine
end
